-- ==== Sys2Proof/Word.lean ====
section
/-! DEFINITION. The word of the two ports, and a container of six like things. -/

namespace Sys2Proof

/-- The one transfer unit of the block: an event word, a BOP word, a status word (R62, R64). Bit 0 is the least
significant bit (R9). -/
abbrev Word := BitVec 32

/-- Six like things indexed 0..5: the six channels of an image (R32), the six sectors of a commutation direction
(R131), the six valid Hall patterns (R111). -/
structure Six (α : Type) where
  x0 : α
  x1 : α
  x2 : α
  x3 : α
  x4 : α
  x5 : α
deriving DecidableEq, Repr

/-- The entry of index `i`. -/
def Six.get {α : Type} (v : Six α) (i : Fin 6) : α :=
  match i with
  | 0 => v.x0
  | 1 => v.x1
  | 2 => v.x2
  | 3 => v.x3
  | 4 => v.x4
  | 5 => v.x5

/-- The entry of index `i` replaced by `a`. -/
def Six.set {α : Type} (v : Six α) (i : Fin 6) (a : α) : Six α :=
  match i with
  | 0 => { v with x0 := a }
  | 1 => { v with x1 := a }
  | 2 => { v with x2 := a }
  | 3 => { v with x3 := a }
  | 4 => { v with x4 := a }
  | 5 => { v with x5 := a }

/-- Six copies of `a`. -/
def Six.replicate {α : Type} (a : α) : Six α := ⟨a, a, a, a, a, a⟩

end Sys2Proof
end

