-- ==== Sys2Proof/Syntax.lean ====
section
/-! DEFINITION. The instructions: the eleven event words (format EVT, R81) and the six BDRV operation words (format
BOP, R84), one constructor per row of the opcode table, with their operands as the encoding carries them. -/

namespace Sys2Proof

/-- The two ports that take words (R61): the event port, and the internal port from the core to the BDRV layer.
The two formats use the same opcode numbers, so a word has a meaning only together with its port. -/
inductive Port where
  /-- The event port (format EVT). -/
  | evt
  /-- The internal port to the BDRV Safety Layer (format BOP). -/
  | bop
deriving DecidableEq, Repr

/-- A 32-bit word presented at a port: the unit of execution (R80, R84). -/
structure PortWord where
  port : Port
  word : Word
deriving DecidableEq, Repr

/-- One constructor per row of the opcode table. Operands are raw fields: the value checks of R83 (c), (d) and R84
are made by `Instr.wellFormed` and, as the rules write them, again by the meanings. -/
inductive Instr where
  /-- `INIT` (R201): the source's `Emo_Init`. -/
  | init
  /-- `START` (R202): the source's `Emo_StartMotor`. -/
  | start
  /-- `STOP` (R203): the source's `Emo_StopMotor`. -/
  | stop
  /-- `SETREF v` (R170), `v` the two's-complement reading of `imm16` (R82). -/
  | setref (imm16 : BitVec 16)
  /-- `TICK` (R177). -/
  | tick
  /-- `HALL pat ts` (R113). -/
  | hall (ts : BitVec 24) (pat : BitVec 3)
  /-- `OFFDIAG r0 r1 r2` (R237), three DiagPhase codes. -/
  | offdiag (r0 r1 r2 : BitVec 2)
  /-- `DIAGOL o` (R238). -/
  | diagol (o : Bool)
  /-- `MON chn kind` (R239); `kind` false = drain-source short, true = over-current. -/
  | mon (chn : BitVec 3) (kind : Bool)
  /-- `CLRSTS bits` (R240). -/
  | clrsts (bits : BitVec 13)
  /-- `SETINT chn which` (R241). -/
  | setint (chn : BitVec 3) (which : BitVec 2)
  /-- `B.SETBRIDGE img` (R231). -/
  | bSetbridge (img : BitVec 18)
  /-- `B.SETCH chn cfgv` (R232). -/
  | bSetch (chn : BitVec 3) (cfgv : BitVec 3)
  /-- `B.CLRSTS bits` (R233). -/
  | bClrsts (bits : BitVec 13)
  /-- `B.SETINT chn which` (R234). -/
  | bSetint (chn : BitVec 3) (which : BitVec 2)
  /-- `B.DIAGOL o` (R235). -/
  | bDiagol (o : Bool)
  /-- `B.OFFDIAG r0 r1 r2` (R236). -/
  | bOffdiag (r0 r1 r2 : BitVec 2)
deriving DecidableEq, Repr

/-- The port whose format an instruction belongs to. -/
def Instr.port (i : Instr) : Port :=
  match i with
  | .init => .evt
  | .start => .evt
  | .stop => .evt
  | .setref _ => .evt
  | .tick => .evt
  | .hall _ _ => .evt
  | .offdiag _ _ _ => .evt
  | .diagol _ => .evt
  | .mon _ _ => .evt
  | .clrsts _ => .evt
  | .setint _ _ => .evt
  | .bSetbridge _ => .bop
  | .bSetch _ _ => .bop
  | .bClrsts _ => .bop
  | .bSetint _ _ => .bop
  | .bDiagol _ => .bop
  | .bOffdiag _ _ _ => .bop

end Sys2Proof
end

