-- ==== Sys2Proof/WellFormed.lean ====
section
/-! DEFINITION. The value checks an instruction passes after its fields are read (R83 (c), (d); R84). -/

namespace Sys2Proof

/-- A DiagPhase code is not the reserved 3 (R89). -/
def validDiagCode (r : BitVec 2) : Bool := r != 3#2

/-- A channel index is 0..5; 6 and 7 are reserved (R90). -/
def validChannelCode (c : BitVec 3) : Bool := c.toNat ≤ 5

/-- A ChannelConfig code is 0..4; 5, 6, 7 are reserved (R88). -/
def validConfigCode (v : BitVec 3) : Bool := v.toNat ≤ 4

/-- The 3-bit field of channel `i` in a packed image (R84, R92). -/
def imgField (img : BitVec 18) (i : Nat) : BitVec 3 := img.extractLsb' (3 * i) 3

/-- Every field of a packed image is a ChannelConfig code 0..4. -/
def validImage (img : BitVec 18) : Bool :=
  validConfigCode (imgField img 0) && validConfigCode (imgField img 1) && validConfigCode (imgField img 2) &&
    validConfigCode (imgField img 3) && validConfigCode (imgField img 4) && validConfigCode (imgField img 5)

/-- The value checks of R83 (c), (d) for events and of R84 for BDRV operations. -/
def Instr.wellFormed (i : Instr) : Bool :=
  match i with
  | .init => true
  | .start => true
  | .stop => true
  | .setref _ => true
  | .tick => true
  | .hall _ _ => true
  | .offdiag r0 r1 r2 => validDiagCode r0 && validDiagCode r1 && validDiagCode r2
  | .diagol _ => true
  | .mon chn _ => validChannelCode chn
  | .clrsts _ => true
  | .setint chn _ => validChannelCode chn
  | .bSetbridge img => validImage img
  | .bSetch chn cfgv => validChannelCode chn && validConfigCode cfgv
  | .bClrsts _ => true
  | .bSetint chn _ => validChannelCode chn
  | .bDiagol _ => true
  | .bOffdiag r0 r1 r2 => validDiagCode r0 && validDiagCode r1 && validDiagCode r2

/-- The value checks as a proposition. -/
abbrev Instr.WellFormed (i : Instr) : Prop := i.wellFormed = true

end Sys2Proof
end

