-- ==== Sys2Proof/Decode.lean ====
section
/-! DEFINITION. From a word at a port to an instruction, total and rejecting by name (R80 to R84), and back. -/

namespace Sys2Proof

/-- Why a word is reserved (R83 (a), (b), and (c) or (d); R84 likewise for the BOP port). -/
inductive DecodeError where
  /-- The opcode is in no row of the port's format: R83 (a). -/
  | reservedOpcode
  /-- A must-be-zero bit of the opcode's row is 1: R83 (b). -/
  | mustBeZero
  /-- The fields read as `i`, one of whose values is reserved: R83 (c), (d), "value checks after decoding". -/
  | reservedValue (i : Instr)
deriving DecidableEq, Repr

/-- `w[lo+n-1:lo]` (R9). -/
def field (w : Word) (lo n : Nat) : BitVec n := w.extractLsb' lo n

/-- The value check after the fields are read (R83 (c), (d)). -/
def checked (i : Instr) : Except DecodeError Instr :=
  if i.wellFormed then .ok i else .error (.reservedValue i)

/-- The must-be-zero check of the payload bits 27 down to `lo` (R81), then the value check. -/
def payload (w : Word) (lo : Nat) (i : Instr) : Except DecodeError Instr :=
  if field w lo (28 - lo) = 0 then checked i else .error .mustBeZero

/-- An event word's instruction (R81, R82). -/
def decodeEvt (w : Word) : Except DecodeError Instr :=
  match (field w 28 4).toNat with
  | 1 => payload w 0 .init
  | 2 => payload w 0 .start
  | 3 => payload w 0 .stop
  | 4 => payload w 16 (.setref (field w 0 16))
  | 5 => payload w 0 .tick
  | 6 => payload w 27 (.hall (field w 3 24) (field w 0 3))
  | 7 => payload w 6 (.offdiag (field w 0 2) (field w 2 2) (field w 4 2))
  | 8 => payload w 1 (.diagol (w.getLsbD 0))
  | 9 => payload w 4 (.mon (field w 0 3) (w.getLsbD 3))
  | 10 => payload w 13 (.clrsts (field w 0 13))
  | 11 => payload w 5 (.setint (field w 0 3) (field w 3 2))
  | _ => .error .reservedOpcode

/-- A BDRV operation word's instruction (R84). -/
def decodeBop (w : Word) : Except DecodeError Instr :=
  match (field w 28 4).toNat with
  | 1 => payload w 18 (.bSetbridge (field w 0 18))
  | 2 => payload w 6 (.bSetch (field w 0 3) (field w 3 3))
  | 3 => payload w 13 (.bClrsts (field w 0 13))
  | 4 => payload w 5 (.bSetint (field w 0 3) (field w 3 2))
  | 5 => payload w 1 (.bDiagol (w.getLsbD 0))
  | 6 => payload w 6 (.bOffdiag (field w 0 2) (field w 2 2) (field w 4 2))
  | _ => .error .reservedOpcode

/-- The decoder: the port selects the format (R61, R80, R84). -/
def decode (f : PortWord) : Except DecodeError Instr :=
  match f.port with
  | .evt => decodeEvt f.word
  | .bop => decodeBop f.word

/-- The instruction whose rule the block follows for a word. A word with a reserved VALUE (R83 (c), (d)) still
names its event, and that event's own rule refuses it (R237, R239, R241; on the BOP port R231 to R236); a word with a
reserved opcode or a must-be-zero bit set names none. -/
def followed (f : PortWord) : Option Instr :=
  match decode f with
  | .ok i => some i
  | .error (.reservedValue i) => some i
  | .error .reservedOpcode => none
  | .error .mustBeZero => none

/-- The word of an instruction, from the same tables (R81, R84): opcode, zeros, fields from high to low. -/
def encodeWord (i : Instr) : Word :=
  match i with
  | .init => 1#4 ++ 0#28
  | .start => 2#4 ++ 0#28
  | .stop => 3#4 ++ 0#28
  | .setref imm16 => 4#4 ++ 0#12 ++ imm16
  | .tick => 5#4 ++ 0#28
  | .hall ts pat => 6#4 ++ 0#1 ++ ts ++ pat
  | .offdiag r0 r1 r2 => 7#4 ++ 0#22 ++ r2 ++ r1 ++ r0
  | .diagol o => 8#4 ++ 0#27 ++ BitVec.ofBool o
  | .mon chn kind => 9#4 ++ 0#24 ++ BitVec.ofBool kind ++ chn
  | .clrsts bits => 10#4 ++ 0#15 ++ bits
  | .setint chn which => 11#4 ++ 0#23 ++ which ++ chn
  | .bSetbridge img => 1#4 ++ 0#10 ++ img
  | .bSetch chn cfgv => 2#4 ++ 0#22 ++ cfgv ++ chn
  | .bClrsts bits => 3#4 ++ 0#15 ++ bits
  | .bSetint chn which => 4#4 ++ 0#23 ++ which ++ chn
  | .bDiagol o => 5#4 ++ 0#27 ++ BitVec.ofBool o
  | .bOffdiag r0 r1 r2 => 6#4 ++ 0#22 ++ r2 ++ r1 ++ r0

/-- The encoder: an instruction's word at its port. -/
def encode (i : Instr) : PortWord := ⟨i.port, encodeWord i⟩

/-- The bytes of a word on a transport that cuts it, least significant byte first (R62). -/
def wordBytes (w : Word) : List (BitVec 8) := [field w 0 8, field w 8 8, field w 16 8, field w 24 8]

/-- The word that four bytes of such a transport carry, with the bytes after it; fewer than four bytes are no word
(R62, R63). -/
def wordOfBytes (bs : List (BitVec 8)) : Option (Word × List (BitVec 8)) :=
  match bs with
  | b0 :: b1 :: b2 :: b3 :: rest => some (b3 ++ b2 ++ b1 ++ b0, rest)
  | _ => none

/-- A word of the opcode table at the port it is a word of: the event port, where the event format accepts it, else
the BOP port, where that format accepts it, else (reserved on both) the event port. The rows of the two formats
overlap, and the event port is the one the host drives (R61, R84): log entry 12. -/
def tablePortWord (nbits w : Nat) : PortWord :=
  let word := BitVec.ofNat 32 (w % 2 ^ nbits)
  match decodeEvt word, decodeBop word with
  | .ok _, _ => ⟨.evt, word⟩
  | .error _, .ok _ => ⟨.bop, word⟩
  | .error _, .error _ => ⟨.evt, word⟩

/-- The instruction the decoder reads from a word of the opcode table; every word of either format has 32 bits
(R95). -/
def decodeTableWord (nbits w : Nat) : Option Instr :=
  if nbits ≤ 32 then
    match decode (tablePortWord nbits w) with
    | .ok i => some i
    | .error _ => none
  else none

end Sys2Proof
end

