-- ==== Sys2Proof/Config.lean ====
section
/-! DEFINITION. The configuration (R7, R8, R37, R38), constant for a run, and the one free value of the model. -/

namespace Sys2Proof

/-- RotorSector: "integer 0–5, cyclic" (R12, R26). -/
abbrev Sector := Fin 6

/-- A channel index 0..5: `2*leg + side` (R13, R90). -/
abbrev Channel := Fin 6

/-- Direction (R87). -/
inductive Direction where
  | forward
  | reverse
deriving DecidableEq, Repr

/-- ChannelConfig (R88). -/
inductive ChannelConfig where
  | off
  | enabled
  | pwm
  | staticOn
  | diagCurrentSource
deriving DecidableEq, Repr

/-- A bridge image: the configuration of the six channels LS1, HS1, LS2, HS2, LS3, HS3 (R32, R90). -/
abbrev Image := Six ChannelConfig

/-- The pattern-to-sector table (R111); entry `p - 1` is `HALL_MAP(p)` for the valid patterns `p` = 1..6. -/
abbrev HallMap := Six Sector

/-- The commutation table (R131): an image for each sector, in each direction. -/
structure CommTable where
  fwd : Six Image
  rev : Six Image
deriving DecidableEq, Repr

/-- Which function `speedOf` is (R173, an OPEN parameter): any function of its two arguments at all, or the spec's
own test instance `speedOf_T`. A name of a function, so that the configuration is plain data. Log entry 8. -/
inductive SpeedOf where
  /-- Nothing is known of the function but its type: the free value `Config.speedOfOpen`. -/
  | unspecified
  /-- `speedOf_T` of R173, "used by the vectors of 95_test_vectors.md and not normative". -/
  | testInstance
deriving DecidableEq, Repr

/-- The configuration struct of the source (R37) and the parameters the spec adds (R8, R38). Unsigned and signed
fields alike are the bits of the field; the signed ones are read with `toInt`. -/
structure Cfg where
  polePairs : BitVec 8
  pwmPeriod : BitVec 16
  initDuty : BitVec 16
  speedKp : BitVec 16
  speedKi : BitVec 16
  /-- s16 -/
  speedIMin : BitVec 16
  /-- s16 -/
  speedIMax : BitVec 16
  /-- s16 -/
  speedPiMin : BitVec 16
  /-- s16 -/
  speedPiMax : BitVec 16
  /-- "carried and read by no rule" (R37) -/
  delayAngle : BitVec 16
  /-- "carried and read by no rule" (R37) -/
  minSpeedDelay : BitVec 16
  /-- Natural number 0..31 (R8). -/
  PI_FRAC : Fin 32
  /-- Natural number 1..65535 (R8). -/
  STALL_TICKS : BitVec 16
  openLoadFatal : Bool
  HALL_MAP : HallMap
  COMM : CommTable
  speedOf : SpeedOf
  /-- The time unit of Hall timestamps, "uninterpreted, no rule reads it" (R8): a bare label. Log entry 10. -/
  TS_UNIT : Nat
deriving DecidableEq, Repr

/-- FREE VALUE (log entry 8): the open function `speedOf` from `polePairs` and a period to a speed 0..32767, of which
"a model assumes ... only the range" (R173), here its type. -/
opaque Config.speedOfOpen : BitVec 8 → BitVec 24 → BitVec 15

end Sys2Proof
end

