-- ==== Sys2Proof/Machine/Defaults.lean ====
section
/-! DEFINITION. The default tables the spec gives for the parameters `HALL_MAP` and `COMM`, and the configuration
CFG_T of its vectors. -/

namespace Sys2Proof.Machine

open Sys2Proof

/-- The default `HALL_MAP` (R111): patterns 1, 2, 3, 4, 5, 6 to sectors 0, 2, 1, 4, 5, 3. -/
def defaultHallMap : HallMap := ⟨0, 2, 1, 4, 5, 3⟩

/-- The image with high side `hs` on PWM, low side `ls` Enabled (legs 0..2) and every other channel Off (R131). -/
def sixStepEntry (hs ls : Fin 3) : Image :=
  ((Six.replicate ChannelConfig.off).set ⟨2 * hs.val + 1, by omega⟩ .pwm).set ⟨2 * ls.val, by omega⟩ .enabled

/-- The default `COMM` (R131): `hs(s)`, `ls(s)` for each sector, the two legs exchanged in reverse. -/
def defaultComm : CommTable where
  fwd := ⟨sixStepEntry 0 1, sixStepEntry 0 2, sixStepEntry 1 2, sixStepEntry 1 0, sixStepEntry 2 0, sixStepEntry 2 1⟩
  rev := ⟨sixStepEntry 1 0, sixStepEntry 2 0, sixStepEntry 2 1, sixStepEntry 0 1, sixStepEntry 0 2, sixStepEntry 1 2⟩

/-- CFG_T, the configuration of 95_test_vectors.md: the source's defaults (R7) and, for what the source leaves
without a value, the values that file chooses for its vectors. Log entry 2. -/
def cfgT : Cfg where
  polePairs := 4
  pwmPeriod := 40
  initDuty := 10
  speedKp := 90
  speedKi := 20
  speedIMin := 0
  speedIMax := 75
  speedPiMin := 8
  speedPiMax := 75
  delayAngle := 0
  minSpeedDelay := 0
  PI_FRAC := 0
  STALL_TICKS := 100
  openLoadFatal := false
  HALL_MAP := defaultHallMap
  COMM := defaultComm
  speedOf := .testInstance
  TS_UNIT := 0

/-- `speedOf_T` of R173: the speed of a period, 32767 for the period 0. -/
def speedOfTest (polePairs : BitVec 8) (dt : BitVec 24) : BitVec 15 :=
  if dt.toNat = 0 then 32767 else BitVec.ofNat 15 (min 32767 (10000000 / (dt.toNat * polePairs.toNat)))

/-- The function `speedOf` of a configuration (R173). `speedOf_T` divides by `polePairs`; where that is 0 (an
ill-formed configuration, R39) and the period is not, the spec states no result and the value is free. -/
def speedOf (cfg : Cfg) (dt : BitVec 24) : BitVec 15 :=
  match cfg.speedOf with
  | .unspecified => Config.speedOfOpen cfg.polePairs dt
  | .testInstance =>
    if dt.toNat ≠ 0 ∧ cfg.polePairs.toNat = 0 then Config.speedOfOpen cfg.polePairs dt
    else speedOfTest cfg.polePairs dt

end Sys2Proof.Machine
end

