-- ==== Sys2Proof/Machine/State.lean ====
section
/-! DEFINITION. The state: the register tuple S of R20, and with it the inputs and outputs of the step (R6). -/

namespace Sys2Proof.Machine

open Sys2Proof

/-- MotorState (R85). -/
inductive MotorState where
  | off
  | starting
  | running
  | fault
deriving DecidableEq, Repr

/-- FaultKind (R86, R270). -/
inductive FaultKind where
  | none
  | sensorFault
  | stallTimeout
  | bridgeDiagnosisFault
  | openLoad
deriving DecidableEq, Repr

/-- DiagPhase (R89). -/
inductive DiagPhase where
  | ok
  | shortToGnd
  | shortToVBat
deriving DecidableEq, Repr

/-- The three per-phase fields `diag[0..2]` (R35); `p0` is the source's phase 1. -/
structure DiagFields where
  p0 : DiagPhase
  p1 : DiagPhase
  p2 : DiagPhase
deriving DecidableEq, Repr

/-- The response code of a step (R91). -/
inductive Resp where
  | ok
  | errState
  | errReserved
  | errDiagPwm
deriving DecidableEq, Repr

/-- What a BDRV operation returns to its caller (R231 to R236). -/
inductive BopReturn where
  /-- "No return value" (R231), and the operations whose rule names none. -/
  | noValue
  /-- `DiagOpenLoad() -> bool` (R235). -/
  | openLoad (o : Bool)
  /-- `OffDiagnosis() -> DiagResult`: the phases and the global fail flag (R236). -/
  | diagResult (d : DiagFields) (fail : Bool)
  /-- `return invalid` (R236). -/
  | invalid
deriving DecidableEq, Repr

/-- The result of `hall_decode` (R111). -/
inductive HallResult where
  | sensorFault
  | sector (s : Sector)
deriving DecidableEq, Repr

/-- The five classes of a valid Hall sample (R112). -/
inductive SampleClass where
  | first
  | repeated
  | stepFwd
  | stepRev
  | glitch
deriving DecidableEq, Repr

/-- The state S of the block: "exactly the tuple of the registers" of R20. -/
structure Regs where
  /-- R21, the sequencing register. -/
  mstate : MotorState
  /-- R22 -/
  fault_kind : FaultKind
  /-- R23, s16 -/
  ref_speed : BitVec 16
  /-- R24, signed, in units of 2^-PI_FRAC of a duty count -/
  integ : BitVec 48
  /-- R25, s16 -/
  pi_out : BitVec 16
  /-- R26 -/
  sector : Sector
  /-- R26 -/
  sector_valid : Bool
  /-- R27 -/
  dir_cmd : Direction
  /-- R28 -/
  dir_obs : Direction
  /-- R29 -/
  last_ts : BitVec 24
  /-- R29 -/
  period : BitVec 24
  /-- R29 -/
  period_valid : Bool
  /-- R30 -/
  stall_cnt : BitVec 16
  /-- R31 -/
  duty : BitVec 16
  /-- R32, the live image `ch[0..5]` -/
  ch : Image
  /-- R33 -/
  sts : BitVec 12
  /-- R34 -/
  ien : BitVec 12
  /-- R35, `diag[0..2]` -/
  diag : DiagFields
  /-- R35 -/
  glob_fail : Bool
  /-- R36 -/
  ol : Bool
deriving DecidableEq, Repr

/-- The machine: the registers S, the configuration a run is given (R37, R38), the words presented at the ports in the
order the block takes them (R61, R66, R67), and the outputs of the last step. Log entries 1, 3, 5. -/
structure State where
  /-- The configuration: a parameter of the step function, written by no event (R37). -/
  cfg : Cfg
  /-- S (R20). -/
  regs : Regs
  /-- The words the environment has presented, the next one the block takes first (R66, R67). -/
  pending : List PortWord
  /-- The response of the last step that took an event word (R41); `none` before the first. -/
  resp : Option Resp
  /-- What the last operation taken at the BOP port returned (R235, R236). -/
  bop_ret : BopReturn
deriving DecidableEq, Repr

/-- The reasons a step could stop the machine with a fault. There are none: "There is no fault in the modelling-guide
sense (a trap that ends the run): the block's own Fault state is ordinary state" (R6). -/
inductive Fault : Type
deriving DecidableEq, Repr

/-- The reasons the model could refuse an instruction. -/
inductive Refusal where
  /-- Raised by an arm of `exec` whose instruction has no meaning yet; no arm raises it. Safe. -/
  | notModelled (mnemonic : String)
deriving DecidableEq, Repr

/-- The reset value of every register (R44, R310). -/
def Regs.reset : Regs where
  mstate := .off
  fault_kind := .none
  ref_speed := 0
  integ := 0
  pi_out := 0
  sector := 0
  sector_valid := false
  dir_cmd := .forward
  dir_obs := .forward
  last_ts := 0
  period := 0
  period_valid := false
  stall_cnt := 0
  duty := 0
  ch := Six.replicate .off
  sts := 0
  ien := 0
  diag := ⟨.ok, .ok, .ok⟩
  glob_fail := false
  ol := false

/-- The machine after power-on reset under a configuration: "`cfg` is not reset: it is an input" (R44). -/
def State.resetWith (cfg : Cfg) : State where
  cfg := cfg
  regs := Regs.reset
  pending := []
  resp := none
  bop_ret := .noValue

/-- The machine after power-on reset, with the configuration CFG_T (log entry 2). -/
def State.reset : State := State.resetWith cfgT

end Sys2Proof.Machine
end

