-- ==== Sys2Proof/Machine/Operands.lean ====
section
/-! DEFINITION. Operand forms: enum codes, channel indices, packed images, the Hall pattern and its class, and the
integer functions of the rules' pseudocode. -/

namespace Sys2Proof.Machine

open Sys2Proof

/-! ## Integers -/

/-- `clamp(x, lo, hi) = min(max(x, lo), hi)`, `hi` when `lo > hi` (R10). -/
def clamp (x lo hi : Int) : Int := min (max x lo) hi

/-- `|v|` of a signed field "as a mathematical integer, so |-32768| = 32768" (R9, R174). -/
def magnitude (v : BitVec 16) : Int := v.toInt.natAbs

/-- `floor(x / 2^q)`, "rounding toward minus infinity" (R9, R176); Lean's division by a positive number is it. -/
def floorDivPow2 (x : Int) (q : Nat) : Int := x / 2 ^ q

/-! ## Enum encodings -/

/-- R85 -/
def MotorState.code (m : MotorState) : BitVec 2 :=
  match m with
  | .off => 0
  | .starting => 1
  | .running => 2
  | .fault => 3

/-- R86 -/
def FaultKind.code (k : FaultKind) : BitVec 3 :=
  match k with
  | .none => 0
  | .sensorFault => 1
  | .stallTimeout => 2
  | .bridgeDiagnosisFault => 3
  | .openLoad => 4

/-- R87, as the one bit it is: Forward = 0, Reverse = 1. -/
def directionBit (d : Direction) : Bool :=
  match d with
  | .forward => false
  | .reverse => true

/-- R88 -/
def configCode (v : ChannelConfig) : BitVec 3 :=
  match v with
  | .off => 0
  | .enabled => 1
  | .pwm => 2
  | .staticOn => 3
  | .diagCurrentSource => 4

/-- The member of a ChannelConfig code; 5, 6, 7 are reserved (R88). -/
def configOfCode (c : BitVec 3) : Option ChannelConfig :=
  match c.toNat with
  | 0 => some .off
  | 1 => some .enabled
  | 2 => some .pwm
  | 3 => some .staticOn
  | 4 => some .diagCurrentSource
  | _ => none

/-- R89 -/
def DiagPhase.code (p : DiagPhase) : BitVec 2 :=
  match p with
  | .ok => 0
  | .shortToGnd => 1
  | .shortToVBat => 2

/-- The member of a DiagPhase code; 3 is reserved (R89). -/
def diagOfCode (c : BitVec 2) : Option DiagPhase :=
  match c.toNat with
  | 0 => some .ok
  | 1 => some .shortToGnd
  | 2 => some .shortToVBat
  | _ => none

/-- The three answers of an off-state diagnosis, `none` when "some r_i = 3" (R236, R237). -/
def diagFieldsOfCodes (r0 r1 r2 : BitVec 2) : Option DiagFields :=
  match diagOfCode r0, diagOfCode r1, diagOfCode r2 with
  | some p0, some p1, some p2 => some ⟨p0, p1, p2⟩
  | _, _, _ => none

/-- R91 -/
def Resp.code (c : Resp) : BitVec 2 :=
  match c with
  | .ok => 0
  | .errState => 1
  | .errReserved => 2
  | .errDiagPwm => 3

/-! ## Channels, legs, images -/

/-- The channel of a 3-bit index; 6 and 7 are reserved (R90). -/
def channelOfCode (c : BitVec 3) : Option Channel :=
  if h : c.toNat < 6 then some ⟨c.toNat, h⟩ else none

/-- `leg(c) = c div 2` (R90). -/
def legOf (c : Channel) : Fin 3 := ⟨c.val / 2, by omega⟩

/-- `side(c) = c mod 2` (R90): 0 = low side, 1 = high side. -/
def sideOf (c : Channel) : Fin 2 := ⟨c.val % 2, by omega⟩

/-- `HS(l) = 2*l + 1` (R130). -/
def highSide (l : Fin 3) : Channel := ⟨2 * l.val + 1, by omega⟩

/-- `LS(l) = 2*l` (R130). -/
def lowSide (l : Fin 3) : Channel := ⟨2 * l.val, by omega⟩

/-- The image of all channels Off, `ALL_OFF` (R92). -/
def allOff : Image := Six.replicate .off

/-- The image of all channels Enabled, `ALL_EN` (R92). -/
def allEn : Image := Six.replicate .enabled

/-- An image as one 18-bit number, channel `i` at bits [3i+2:3i] (R92). -/
def packImage (g : Image) : BitVec 18 :=
  configCode g.x5 ++ configCode g.x4 ++ configCode g.x3 ++ configCode g.x2 ++ configCode g.x1 ++ configCode g.x0

/-- The image of an 18-bit number, `none` when a field is 5, 6 or 7 (R84, R231). -/
def unpackImage (img : BitVec 18) : Option Image :=
  match configOfCode (imgField img 0), configOfCode (imgField img 1), configOfCode (imgField img 2),
      configOfCode (imgField img 3), configOfCode (imgField img 4), configOfCode (imgField img 5) with
  | some x0, some x1, some x2, some x3, some x4, some x5 => some ⟨x0, x1, x2, x3, x4, x5⟩
  | _, _, _, _, _, _ => none

/-! ## Direction and Hall pattern -/

/-- `dir_of_ref(v)`: Forward when `v >= 0`, Reverse when `v < 0` (R171). -/
def dirOfRef (v : BitVec 16) : Direction := if v.toInt < 0 then .reverse else .forward

/-- `hall_decode(p)`: SensorFault for the patterns 0 and 7, else the sector `HALL_MAP(p)` (R111). -/
def hallDecode (m : HallMap) (p : BitVec 3) : HallResult :=
  match p.toNat with
  | 1 => .sector m.x0
  | 2 => .sector m.x1
  | 3 => .sector m.x2
  | 4 => .sector m.x3
  | 5 => .sector m.x4
  | 6 => .sector m.x5
  | _ => .sensorFault

/-- `classify(s, S)` (R112). -/
def classify (s : Sector) (r : Regs) : SampleClass :=
  if r.sector_valid = false then .first
  else if s = r.sector then .repeated
  else if s.val = (r.sector.val + 1) % 6 then .stepFwd
  else if s.val = (r.sector.val + 5) % 6 then .stepRev
  else .glitch

/-- "A sample is accepted when its class is First, StepFwd or StepRev" (R112). -/
def SampleClass.accepted (c : SampleClass) : Bool :=
  match c with
  | .first => true
  | .repeated => false
  | .stepFwd => true
  | .stepRev => true
  | .glitch => false

end Sys2Proof.Machine
end

