-- ==== Sys2Proof/Machine/Flags.lean ====
section
/-! DEFINITION. The one-bit state (R43): the bits of `sts` and `ien`, the global fail flag, the fault interrupt. -/

namespace Sys2Proof.Machine

open Sys2Proof

/-- The bit `2*c + k` of channel `c` and kind `k` in `sts` and `ien` (R33, R34). -/
def flagIndex (c : Channel) (kind : Bool) : Nat := 2 * c.val + kind.toNat

/-- Bit `b` of a 12-bit flag word set to `v`. -/
def setFlag (x : BitVec 12) (b : Nat) (v : Bool) : BitVec 12 :=
  if v then x ||| (1#12 <<< b) else x &&& ~~~(1#12 <<< b)

/-- `ien` after `B.SETINT(chn, which)`: "`which` replaces both enable bits of the channel (it is not an OR)" (R234). -/
def setEnables (ien : BitVec 12) (c : Channel) (which : BitVec 2) : BitVec 12 :=
  setFlag (setFlag ien (flagIndex c false) (which.getLsbD 0)) (flagIndex c true) (which.getLsbD 1)

/-- `sts` after `B.CLRSTS(bits)`: write one to clear, `bits[11:0]` over `sts` (R233). -/
def clearStatus (sts : BitVec 12) (bits : BitVec 13) : BitVec 12 := sts &&& ~~~(bits.extractLsb' 0 12)

/-- `ol` after `B.CLRSTS(bits)`: bit 12 clears the latch (R233). -/
def clearOpenLoad (ol : Bool) (bits : BitVec 13) : Bool := if bits.getLsbD 12 then false else ol

/-- The global fail flag of a diagnosis, "computed by the block, not supplied" (R236). -/
def globalFail (d : DiagFields) : Bool := d.p0 != .ok || d.p1 != .ok || d.p2 != .ok

/-- `irq_fault` (R42, R273): 1 exactly while `mstate` is Fault. -/
def irqFault (r : Regs) : Bool := r.mstate == .fault

end Sys2Proof.Machine
end

