-- ==== Sys2Proof/Machine/Ops.lean ====
section
/-! DEFINITION. The shared operations: the six BDRV operations, the entry into the Fault state and the return from it,
the commit of a table entry, the output stage, the PI step, and how a step ends. -/

namespace Sys2Proof.Machine

open Sys2Proof

/-! ## The BDRV operations (R231 to R236): the only writers of `ch`, `sts`, `ien`, `diag`, `glob_fail`, `ol` (R230) -/

/-- `B.SETBRIDGE(img)` (R231): all six fields in one write, nothing if any field is 5, 6 or 7. -/
def setBridge (img : BitVec 18) (r : Regs) : Regs :=
  match unpackImage img with
  | some g => { r with ch := g }
  | none => r

/-- `B.SETCH(chn, cfgv)` (R232): one field, nothing if `chn` or `cfgv` is out of range. -/
def setChannel (chn cfgv : BitVec 3) (r : Regs) : Regs :=
  match channelOfCode chn, configOfCode cfgv with
  | some c, some v => { r with ch := r.ch.set c v }
  | _, _ => r

/-- `B.CLRSTS(bits)` (R233). -/
def clrStatus (bits : BitVec 13) (r : Regs) : Regs :=
  { r with sts := clearStatus r.sts bits, ol := clearOpenLoad r.ol bits }

/-- `B.SETINT(chn, which)` (R234), nothing if `chn` is out of range. -/
def setInterrupt (chn : BitVec 3) (which : BitVec 2) (r : Regs) : Regs :=
  match channelOfCode chn with
  | some c => { r with ien := setEnables r.ien c which }
  | none => r

/-- `B.DIAGOL(o)` (R235): latch the answer and return it. -/
def diagOpenLoad (o : Bool) (r : Regs) : Regs × BopReturn := ({ r with ol := o }, .openLoad o)

/-- `B.OFFDIAG(r0, r1, r2)` (R236): latch the answers and the global flag and return them; nothing and `invalid` if some
`r_i` = 3. -/
def offDiagnosis (r0 r1 r2 : BitVec 2) (r : Regs) : Regs × BopReturn :=
  match diagFieldsOfCodes r0 r1 r2 with
  | some d => ({ r with diag := d, glob_fail := globalFail d }, .diagResult d (globalFail d))
  | none => (r, .invalid)

/-! ## Fault entry and return -/

/-- `enter_fault(k)` (R204, R276): the image all Off in one atomic write, `mstate` Fault, `fault_kind` k; "Nothing else
is written". -/
def enterFault (k : FaultKind) (r : Regs) : Regs :=
  { setBridge (packImage allOff) r with mstate := .fault, fault_kind := k }

/-- The three writes INIT makes through the BDRV layer (R201): image all Off, status and open-load latch cleared, every
interrupt enable cleared. -/
def initBridge (r : Regs) : Regs :=
  [0#3, 1#3, 2#3, 3#3, 4#3, 5#3].foldl (fun r c => setInterrupt c 0 r)
    (clrStatus 0x1FFF#13 (setBridge (packImage allOff) r))

/-- INIT, "the only return from Fault" (R201, R277): the BDRV writes, then "every other register of R20 <- its reset
value of R44". -/
def initialise (r : Regs) : Regs :=
  { Regs.reset with
    ch := (initBridge r).ch, sts := (initBridge r).sts, ien := (initBridge r).ien, ol := (initBridge r).ol }

/-! ## Commutation and output stage -/

/-- `COMM(s, d)` (R131). -/
def commEntry (cfg : Cfg) (s : Sector) (d : Direction) : Image :=
  match d with
  | .forward => cfg.COMM.fwd.get s
  | .reverse => cfg.COMM.rev.get s

/-- `commit(s, d)`: `B.SETBRIDGE(COMM(s, d))` (R134). -/
def commit (cfg : Cfg) (s : Sector) (d : Direction) (r : Regs) : Regs := setBridge (packImage (commEntry cfg s d)) r

/-- `out_stage(d)` (R150): the clamp to the duty limits, then to the period. -/
def outStage (cfg : Cfg) (d : Int) : Int :=
  clamp (clamp d cfg.speedIMin.toInt cfg.speedIMax.toInt) 0 cfg.pwmPeriod.toNat

/-- `write_duty(d)` (R151): only while `mstate` is Running. -/
def writeDuty (cfg : Cfg) (d : Int) (r : Regs) : Regs :=
  if r.mstate = .running then { r with duty := BitVec.ofInt 16 (outStage cfg d) } else r

/-! ## Speed -/

/-- `speed_meas(S)` (R172). -/
def speedMeas (cfg : Cfg) (r : Regs) : Int := if r.period_valid then (speedOf cfg r.period).toNat else 0

/-- `e = |S.ref_speed| - speed_meas(S)` (R174). -/
def speedError (cfg : Cfg) (r : Regs) : Int := magnitude r.ref_speed - speedMeas cfg r

/-- `pi_step(integ, e)` (R175): the new integrator, then the output. -/
def piStep (cfg : Cfg) (integ e : Int) : Int × Int :=
  let acc := clamp (integ + cfg.speedKi.toNat * e)
    (cfg.speedIMin.toInt * 2 ^ cfg.PI_FRAC.val) (cfg.speedIMax.toInt * 2 ^ cfg.PI_FRAC.val)
  (acc, clamp (floorDivPow2 (cfg.speedKp.toNat * e + acc) cfg.PI_FRAC.val) cfg.speedPiMin.toInt cfg.speedPiMax.toInt)

/-- The PI step of a TICK in Running: the PI registers, then `write_duty` of the new output (R177). -/
def runPi (cfg : Cfg) (e : Int) (r : Regs) : Regs :=
  writeDuty cfg (piStep cfg r.integ.toInt e).2
    { r with
      integ := BitVec.ofInt 48 (piStep cfg r.integ.toInt e).1
      pi_out := BitVec.ofInt 16 (piStep cfg r.integ.toInt e).2 }

/-! ## How a step ends -/

/-- An event taken: the next S and the response (R6). -/
def State.answer (s : State) (out : Regs × Resp) : State := { s with regs := out.1, resp := some out.2 }

/-- A BDRV operation taken at the BOP port: the next S and the return value. -/
def State.returned (s : State) (out : Regs × BopReturn) : State := { s with regs := out.1, bop_ret := out.2 }

/-- The first pending word taken from its port (R67: "an event stays pending until taken"). -/
def State.taken (s : State) (rest : List PortWord) : State := { s with pending := rest }

/-- A word that names no event or operation: on the event port the response is ERR_RESERVED and S is unchanged (R83); on
the BOP port the layer's state is unchanged (R84). -/
def refuseWord (p : Port) (s : State) : State :=
  match p with
  | .evt => s.answer (s.regs, .errReserved)
  | .bop => s.returned (s.regs, .noValue)

end Sys2Proof.Machine
end

