-- ==== Sys2Proof/Machine/Bdrv.lean ====
section
/-! DEFINITION. The events that reach the BDRV safety layer: OFFDIAG, DIAGOL, MON, CLRSTS, SETINT (45_bdrv.md). -/

namespace Sys2Proof.Machine

open Sys2Proof

/-- `OFFDIAG r0 r1 r2` (R237): a failing answer is honoured in Starting and Running, a passing one is not trusted in
Running. -/
def offdiagEvent (r0 r1 r2 : BitVec 2) (r : Regs) : Regs × Resp :=
  match diagFieldsOfCodes r0 r1 r2 with
  | none => (r, .errReserved)
  | some d =>
    match r.mstate with
    | .off => ((offDiagnosis r0 r1 r2 r).1, .ok)
    | .starting =>
      if globalFail d then (enterFault .bridgeDiagnosisFault (offDiagnosis r0 r1 r2 r).1, .ok)
      else ((offDiagnosis r0 r1 r2 r).1, .ok)
    | .running =>
      if globalFail d then (enterFault .bridgeDiagnosisFault (offDiagnosis r0 r1 r2 r).1, .ok)
      else (r, .errDiagPwm)
    | .fault => (r, .errState)

/-- `DIAGOL o` (R238). -/
def diagolEvent (cfg : Cfg) (o : Bool) (r : Regs) : Regs × Resp :=
  match r.mstate with
  | .off => ((diagOpenLoad o r).1, .ok)
  | .starting =>
    if o && cfg.openLoadFatal then (enterFault .openLoad (diagOpenLoad o r).1, .ok) else ((diagOpenLoad o r).1, .ok)
  | .running => (r, .errDiagPwm)
  | .fault => (r, .errState)

/-- `MON chn kind` (R239): the sticky bit in every `mstate`, the fault only where the bit's enable is 1 and the bridge
is powered. -/
def monEvent (chn : BitVec 3) (kind : Bool) (r : Regs) : Regs × Resp :=
  match channelOfCode chn with
  | none => (r, .errReserved)
  | some c =>
    let r' := { r with sts := setFlag r.sts (flagIndex c kind) true }
    if r.ien.getLsbD (flagIndex c kind) = true ∧ (r.mstate = .starting ∨ r.mstate = .running) then
      (enterFault .bridgeDiagnosisFault r', .ok)
    else (r', .ok)

/-- `CLRSTS bits` (R240), honoured in every `mstate`. -/
def clrstsEvent (bits : BitVec 13) (r : Regs) : Regs × Resp := (clrStatus bits r, .ok)

/-- `SETINT chn which` (R241), honoured in every `mstate`. -/
def setintEvent (chn : BitVec 3) (which : BitVec 2) (r : Regs) : Regs × Resp :=
  match channelOfCode chn with
  | none => (r, .errReserved)
  | some _ => (setInterrupt chn which r, .ok)

/-- OFFDIAG: R237. -/
def execOffdiag (r0 r1 r2 : BitVec 2) (s : State) : Host.Outcome State Fault Refusal :=
  .next (s.answer (offdiagEvent r0 r1 r2 s.regs))

/-- DIAGOL: R238. -/
def execDiagol (o : Bool) (s : State) : Host.Outcome State Fault Refusal :=
  .next (s.answer (diagolEvent s.cfg o s.regs))

/-- MON: R239. -/
def execMon (chn : BitVec 3) (kind : Bool) (s : State) : Host.Outcome State Fault Refusal :=
  .next (s.answer (monEvent chn kind s.regs))

/-- CLRSTS: R240. -/
def execClrsts (bits : BitVec 13) (s : State) : Host.Outcome State Fault Refusal :=
  .next (s.answer (clrstsEvent bits s.regs))

/-- SETINT: R241. -/
def execSetint (chn : BitVec 3) (which : BitVec 2) (s : State) : Host.Outcome State Fault Refusal :=
  .next (s.answer (setintEvent chn which s.regs))

end Sys2Proof.Machine
end

