-- ==== Sys2Proof/Machine/Bop.lean ====
section
/-! DEFINITION. The six BDRV operations as words of the BOP port (45_bdrv.md R231 to R236). They write the layer's
registers and never `mstate` (R230); an operand out of range writes nothing (R84). -/

namespace Sys2Proof.Machine

open Sys2Proof

/-- B.SETBRIDGE: R231. -/
def execBSetbridge (img : BitVec 18) (s : State) : Host.Outcome State Fault Refusal :=
  .next (s.returned (setBridge img s.regs, .noValue))

/-- B.SETCH: R232. -/
def execBSetch (chn cfgv : BitVec 3) (s : State) : Host.Outcome State Fault Refusal :=
  .next (s.returned (setChannel chn cfgv s.regs, .noValue))

/-- B.CLRSTS: R233. -/
def execBClrsts (bits : BitVec 13) (s : State) : Host.Outcome State Fault Refusal :=
  .next (s.returned (clrStatus bits s.regs, .noValue))

/-- B.SETINT: R234. -/
def execBSetint (chn : BitVec 3) (which : BitVec 2) (s : State) : Host.Outcome State Fault Refusal :=
  .next (s.returned (setInterrupt chn which s.regs, .noValue))

/-- B.DIAGOL: R235. -/
def execBDiagol (o : Bool) (s : State) : Host.Outcome State Fault Refusal := .next (s.returned (diagOpenLoad o s.regs))

/-- B.OFFDIAG: R236. -/
def execBOffdiag (r0 r1 r2 : BitVec 2) (s : State) : Host.Outcome State Fault Refusal :=
  .next (s.returned (offDiagnosis r0 r1 r2 s.regs))

end Sys2Proof.Machine
end

