-- ==== Sys2Proof/Machine/Hall.lean ====
section
/-! DEFINITION. The Hall decoder's event HALL (40_hall_decoder.md). -/

namespace Sys2Proof.Machine

open Sys2Proof

/-- The decoder writes of an accepted step (R113): the observed direction, the period modulo 2^24, the new sector. -/
def hallStep (d : Direction) (s : Sector) (ts : BitVec 24) (r : Regs) : Regs :=
  { r with
    dir_obs := d, period := ts - r.last_ts, period_valid := true
    sector := s, last_ts := ts, stall_cnt := 0 }

/-- The decoder writes of a sample of class `c` (R113); a repeat or a glitch writes nothing. -/
def hallDecoderWrites (c : SampleClass) (s : Sector) (ts : BitVec 24) (r : Regs) : Regs :=
  match c with
  | .first => { r with sector := s, sector_valid := true, last_ts := ts, stall_cnt := 0 }
  | .stepFwd => hallStep .forward s ts r
  | .stepRev => hallStep .reverse s ts r
  | .repeated => r
  | .glitch => r

/-- The move from Starting to Running (R113, R205): the initial duty, then the commit of the new sector. -/
def enterRunning (cfg : Cfg) (r : Regs) : Regs :=
  commit cfg r.sector r.dir_cmd (writeDuty cfg cfg.initDuty.toNat { r with mstate := .running })

/-- A valid sample of sector `s` in Starting or Running (R113); the class is read before any write. -/
def hallSample (cfg : Cfg) (s : Sector) (ts : BitVec 24) (r : Regs) : Regs :=
  let c := classify s r
  let r' := hallDecoderWrites c s ts r
  if r.mstate = .starting then enterRunning cfg r'
  else if c.accepted then commit cfg r'.sector r'.dir_cmd r'
  else r'

/-- `HALL pat ts` (R113). -/
def hallEvent (cfg : Cfg) (ts : BitVec 24) (pat : BitVec 3) (r : Regs) : Regs × Resp :=
  if r.mstate = .off ∨ r.mstate = .fault then (r, .errState)
  else
    match hallDecode cfg.HALL_MAP pat with
    | .sensorFault => (enterFault .sensorFault r, .ok)
    | .sector s => (hallSample cfg s ts r, .ok)

/-- HALL: R113. -/
def execHall (ts : BitVec 24) (pat : BitVec 3) (s : State) : Host.Outcome State Fault Refusal :=
  .next (s.answer (hallEvent s.cfg ts pat s.regs))

end Sys2Proof.Machine
end

