-- ==== Sys2Proof/Machine/Speed.lean ====
section
/-! DEFINITION. The speed controller's events SETREF and TICK (43_pi_speed.md). -/

namespace Sys2Proof.Machine

open Sys2Proof

/-- `SETREF v` (R170), honoured in every `mstate`. -/
def setrefEvent (imm16 : BitVec 16) (r : Regs) : Regs × Resp := ({ r with ref_speed := imm16 }, .ok)

/-- TICK in Starting or Running below the stall limit (R177): latch the direction and, in Running, run the PI step. -/
def tickBelowLimit (cfg : Cfg) (r : Regs) : Regs :=
  if r.mstate = .running then runPi cfg (speedError cfg r) { r with dir_cmd := dirOfRef r.ref_speed }
  else { r with dir_cmd := dirOfRef r.ref_speed }

/-- `TICK` (R177). The count compared with `STALL_TICKS` is the old one plus 1 (log entry 6). -/
def tickEvent (cfg : Cfg) (r : Regs) : Regs × Resp :=
  if r.mstate = .off ∨ r.mstate = .fault then (r, .ok)
  else if cfg.STALL_TICKS.toNat ≤ r.stall_cnt.toNat + 1 then
    (enterFault .stallTimeout { r with stall_cnt := r.stall_cnt + 1 }, .ok)
  else (tickBelowLimit cfg { r with stall_cnt := r.stall_cnt + 1 }, .ok)

/-- SETREF: R170. -/
def execSetref (imm16 : BitVec 16) (s : State) : Host.Outcome State Fault Refusal :=
  .next (s.answer (setrefEvent imm16 s.regs))

/-- TICK: R177. -/
def execTick (s : State) : Host.Outcome State Fault Refusal := .next (s.answer (tickEvent s.cfg s.regs))

end Sys2Proof.Machine
end

