-- ==== Sys2Proof/Machine/Supervisor.lean ====
section
/-! DEFINITION. The motor supervisor's events INIT, START, STOP (44_supervisor.md). -/

namespace Sys2Proof.Machine

open Sys2Proof

/-- `INIT` (R201), honoured in every `mstate`. -/
def initEvent (r : Regs) : Regs × Resp := (initialise r, .ok)

/-- The priming writes of START and its move to Starting (R202). -/
def primed (r : Regs) : Regs :=
  { r with
    integ := 0, pi_out := 0, sector_valid := false, period_valid := false, stall_cnt := 0
    dir_cmd := dirOfRef r.ref_speed, mstate := .starting }

/-- `START` (R202): the diagnosis latches are consulted before the bridge is enabled. -/
def startEvent (cfg : Cfg) (r : Regs) : Regs × Resp :=
  if r.mstate ≠ .off then (r, .errState)
  else if r.glob_fail then (enterFault .bridgeDiagnosisFault (primed r), .ok)
  else if r.ol && cfg.openLoadFatal then (enterFault .openLoad (primed r), .ok)
  else (setBridge (packImage allEn) (primed r), .ok)

/-- `STOP` (R203). -/
def stopEvent (r : Regs) : Regs × Resp :=
  if r.mstate = .starting ∨ r.mstate = .running then ({ setBridge (packImage allOff) r with mstate := .off }, .ok)
  else (r, .errState)

/-- INIT: R201. -/
def execInit (s : State) : Host.Outcome State Fault Refusal := .next (s.answer (initEvent s.regs))

/-- START: R202. -/
def execStart (s : State) : Host.Outcome State Fault Refusal := .next (s.answer (startEvent s.cfg s.regs))

/-- STOP: R203. -/
def execStop (s : State) : Host.Outcome State Fault Refusal := .next (s.answer (stopEvent s.regs))

end Sys2Proof.Machine
end

