-- ==== Sys2Proof/Machine/Dispatch.lean ====
section
/-! DEFINITION. One arm per instruction, each a call of its meaning. -/

namespace Sys2Proof.Machine

open Sys2Proof

def exec (i : Instr) (s : State) : Host.Outcome State Fault Refusal :=
  match i with
  | .init => Sys2Proof.Machine.execInit s
  | .start => Sys2Proof.Machine.execStart s
  | .stop => Sys2Proof.Machine.execStop s
  | .setref imm16 => Sys2Proof.Machine.execSetref imm16 s
  | .tick => Sys2Proof.Machine.execTick s
  | .hall ts pat => Sys2Proof.Machine.execHall ts pat s
  | .offdiag r0 r1 r2 => Sys2Proof.Machine.execOffdiag r0 r1 r2 s
  | .diagol o => Sys2Proof.Machine.execDiagol o s
  | .mon chn kind => Sys2Proof.Machine.execMon chn kind s
  | .clrsts bits => Sys2Proof.Machine.execClrsts bits s
  | .setint chn which => Sys2Proof.Machine.execSetint chn which s
  | .bSetbridge img => Sys2Proof.Machine.execBSetbridge img s
  | .bSetch chn cfgv => Sys2Proof.Machine.execBSetch chn cfgv s
  | .bClrsts bits => Sys2Proof.Machine.execBClrsts bits s
  | .bSetint chn which => Sys2Proof.Machine.execBSetint chn which s
  | .bDiagol o => Sys2Proof.Machine.execBDiagol o s
  | .bOffdiag r0 r1 r2 => Sys2Proof.Machine.execBOffdiag r0 r1 r2 s

end Sys2Proof.Machine
end

