-- ==== Sys2Proof/Machine/Take.lean ====
section
/-! DEFINITION. Taking a word from a port (R66, R83, R84). -/

namespace Sys2Proof.Machine

open Sys2Proof

/-- A word taken from a port: its instruction's rule, or the refusal of a word that names none (R83, R84). -/
def takeWord (f : PortWord) (s : State) : Host.Outcome State Fault Refusal :=
  match followed f with
  | some i => exec i s
  | none => .next (refuseWord f.port s)

end Sys2Proof.Machine
end

