-- ==== Sys2Proof/Machine/Step.lean ====
section
/-! DEFINITION. One step: the block takes the next word presented at its ports and follows its rule (R6, R66). -/

namespace Sys2Proof.Machine

open Sys2Proof

/-- One step: the first pending word is taken; with none presented "the block takes no step" (R63) and nothing
changes. -/
def step (s : State) : Host.Outcome State Fault Refusal :=
  match s.pending with
  | [] => .next s
  | f :: rest => takeWord f (s.taken rest)

/-- `s` with a word of the opcode table presented as the next one the block takes, at the port it is a word of. -/
def State.withFetchWord (s : State) (nbits w : Nat) : State := { s with pending := tablePortWord nbits w :: s.pending }

end Sys2Proof.Machine
end

