-- ==== Sys2Proof/Machine/Status.lean ====
section
/-! DEFINITION. What the block shows: the status port (R40, R42, R61), the gate port (R61), the table's output
function (R133), and the predicates on images of the diagnosis contract and the shoot-through invariant (R132, R136). -/

namespace Sys2Proof.Machine

open Sys2Proof

/-- STATUS0 (R40), fields from bit 31 down. -/
def status0 (r : Regs) : Word :=
  0#11 ++ BitVec.ofBool (irqFault r) ++ BitVec.ofBool r.period_valid ++ r.diag.p2.code ++ r.diag.p1.code ++
    r.diag.p0.code ++ BitVec.ofBool r.glob_fail ++ BitVec.ofBool r.ol ++ BitVec.ofBool (directionBit r.dir_obs) ++
    BitVec.ofBool (directionBit r.dir_cmd) ++ BitVec.ofBool r.sector_valid ++ BitVec.ofNat 3 r.sector.val ++
    r.fault_kind.code ++ r.mstate.code

/-- STATUS1 (R40): the image. -/
def status1 (r : Regs) : Word := 0#14 ++ packImage r.ch

/-- STATUS2 (R40): `pi_out`, `duty`. -/
def status2 (r : Regs) : Word := r.pi_out ++ r.duty

/-- STATUS3 (R40): `ien`, `sts`. -/
def status3 (r : Regs) : Word := 0#8 ++ r.ien ++ r.sts

/-- The status port, selected by a 2-bit index (R61); reading is a function of S and changes nothing (R64). -/
def statusWord (index : BitVec 2) (r : Regs) : Word :=
  match index.toNat with
  | 0 => status0 r
  | 1 => status1 r
  | 2 => status2 r
  | _ => status3 r

/-- The gate port (R61): the image and the compare register, driven continuously. -/
def gatePort (r : Regs) : BitVec 18 × BitVec 16 := (packImage r.ch, r.duty)

/-- The channel the compare register acts on: "the one channel whose image field is `PWM`", none when there is none
(R154). DESIGN CHOICE, unsafe (log entry 17): R154 does not say which channel it is when several fields are PWM, an image
that only an ill-formed `COMM` or a BOP word gives; the model answers the lowest-numbered one. -/
def activePwmChannel (g : Image) : Option Channel :=
  [(0 : Channel), 1, 2, 3, 4, 5].find? (fun c => g.get c == .pwm)

/-- The Commutation Table's output function (R133): all Off until a sector is established. -/
def commOut (cfg : Cfg) (r : Regs) : Image := if r.sector_valid then commEntry cfg r.sector r.dir_cmd else allOff

/-- `active(v)` (R136). -/
def active (v : ChannelConfig) : Bool := v != .off

/-- `pwm_active(g)` (R136): some channel is PWM or StaticOn. -/
def pwmActive (g : Image) : Prop := ∃ c : Channel, g.get c = .pwm ∨ g.get c = .staticOn

/-- `shoot_through(g)` (R136): some leg has both sides active. -/
def shootThrough (g : Image) : Prop :=
  ∃ l : Fin 3, active (g.get (highSide l)) = true ∧ active (g.get (lowSide l)) = true

/-- `wf_entry(g)` (R132): one high side on PWM, one low side Enabled, from different legs, every other channel Off. -/
def wfEntry (g : Image) : Prop :=
  ∃ a b : Fin 3, a ≠ b ∧ g.get (highSide a) = .pwm ∧ g.get (lowSide b) = .enabled ∧
    ∀ c : Channel, c ≠ highSide a → c ≠ lowSide b → g.get c = .off

end Sys2Proof.Machine
end

