-- ==== Sys2Proof/Safety.lean ====
section
/-! DEFINITION. What a safe run is: well-formed configurations (R39), the invariants of R45, the transition table of
R200 and the response table of R271, written from those rules and not from the machine. -/

namespace Sys2Proof.Safety

open Sys2Proof Sys2Proof.Machine

/-- Well-formed configuration (R39). `PI_FRAC <= 31` and the range of `speedOf` hold by their types. -/
structure WfCfg (cfg : Cfg) : Prop where
  iMin_le_iMax : cfg.speedIMin.toInt ≤ cfg.speedIMax.toInt
  piMin_le_piMax : cfg.speedPiMin.toInt ≤ cfg.speedPiMax.toInt
  pwmPeriod_pos : 1 ≤ cfg.pwmPeriod.toNat
  polePairs_pos : 1 ≤ cfg.polePairs.toNat
  stallTicks_pos : 1 ≤ cfg.STALL_TICKS.toNat
  hallMap_bijective : Function.Bijective cfg.HALL_MAP.get
  comm_wfEntry : ∀ s d, wfEntry (commEntry cfg s d)

/-- The invariants (a) to (h) of R45, of the registers under a configuration. -/
structure RegInv (cfg : Cfg) (r : Regs) : Prop where
  /-- (a) -/
  off_or_fault_allOff : r.mstate = .off ∨ r.mstate = .fault → ∀ c, r.ch.get c = .off
  /-- (b) -/
  starting_allEnabled : r.mstate = .starting → (∀ c, r.ch.get c = .enabled) ∧ r.sector_valid = false
  /-- (c) -/
  running_tableEntry : r.mstate = .running → r.sector_valid = true ∧ ∃ d, r.ch = commEntry cfg r.sector d
  /-- (d) -/
  faultKind_iff : r.fault_kind ≠ .none ↔ r.mstate = .fault
  /-- (e) -/
  duty_le_period : r.duty.toNat ≤ cfg.pwmPeriod.toNat
  /-- (f) -/
  stall_below_limit : r.mstate = .starting ∨ r.mstate = .running → r.stall_cnt.toNat < cfg.STALL_TICKS.toNat
  /-- (g) -/
  globFail_iff : r.glob_fail = true ↔ (r.diag.p0 ≠ .ok ∨ r.diag.p1 ≠ .ok ∨ r.diag.p2 ≠ .ok)
  /-- (h) -/
  no_shootThrough : r.mstate ≠ .starting → ¬ shootThrough r.ch

/-- The invariant of a run the host drives: well-formed configuration, only event words presented ("BOP words are
produced only by the block's own event rules, never by the host", R84), and R45 of the registers. -/
structure Inv (s : State) : Prop where
  cfg_wf : WfCfg s.cfg
  events_only : ∀ f ∈ s.pending, f.port = .evt
  regs_inv : RegInv s.cfg s.regs

/-- Some payload bit 27..`lo` is 1. -/
def payloadBitSet (w : Word) (lo : Nat) : Prop := w.toNat % 2 ^ 28 / 2 ^ lo ≠ 0

/-- The event words reserved by R83, read off the bits by opcode: (b) a must-be-zero bit set, (c) a DiagPhase 3, (d) a
channel 6 or 7, and (a) the opcodes 0x0 and 0xC..0xF whole. -/
def ReservedEvent (w : Word) : Prop :=
  match w.toNat / 2 ^ 28 with
  | 1 => payloadBitSet w 0
  | 2 => payloadBitSet w 0
  | 3 => payloadBitSet w 0
  | 4 => payloadBitSet w 16
  | 5 => payloadBitSet w 0
  | 6 => payloadBitSet w 27
  | 7 => payloadBitSet w 6 ∨ w.toNat % 4 = 3 ∨ w.toNat / 4 % 4 = 3 ∨ w.toNat / 16 % 4 = 3
  | 8 => payloadBitSet w 1
  | 9 => payloadBitSet w 4 ∨ 6 ≤ w.toNat % 8
  | 10 => payloadBitSet w 13
  | 11 => payloadBitSet w 5 ∨ 6 ≤ w.toNat % 8
  | _ => True

/-- Some phase of the answers is not Ok: the `g` of R237. -/
def failing (r0 r1 r2 : BitVec 2) : Prop := r0 ≠ 0 ∨ r1 ≠ 0 ∨ r2 ≠ 0

/-- The pattern is one of the two invalid ones (R110, R111). -/
def invalidPattern (p : BitVec 3) : Prop := p = 0 ∨ p = 7

/-- The bridge is powered: `mstate` is Starting or Running. -/
def powered (r : Regs) : Prop := r.mstate = .starting ∨ r.mstate = .running

/-- The bridge is unpowered: `mstate` is Off or Fault. -/
def unpowered (r : Regs) : Prop := r.mstate = .off ∨ r.mstate = .fault

/-- `diag` and `glob_fail` hold the answers `r0 r1 r2`: "(latched)" in the table of R200. -/
def latched (r0 r1 r2 : BitVec 2) (t : Regs) : Prop :=
  t.diag.p0.code = r0 ∧ t.diag.p1.code = r1 ∧ t.diag.p2.code = r2 ∧ (t.glob_fail = true ↔ failing r0 r1 r2)

/-- A cell of the table of R200: the registers `r` before, `t` after, and the response `c`, for an event that is no
reserved word. The BOP operations have no row there; of them it says what R230 says, that `mstate` is unchanged. -/
def TableCell (i : Instr) (cfg : Cfg) (r t : Regs) (c : Resp) : Prop :=
  match i with
  | .init => t = Regs.reset ∧ c = .ok
  | .start =>
    (r.mstate ≠ .off → t.mstate = r.mstate ∧ c = .errState) ∧
    (r.mstate = .off → c = .ok ∧
      (r.glob_fail = true ∨ (r.ol = true ∧ cfg.openLoadFatal = true) → t.mstate = .fault) ∧
      (r.glob_fail = false ∧ (r.ol = false ∨ cfg.openLoadFatal = false) → t.mstate = .starting))
  | .stop =>
    (powered r → t.mstate = .off ∧ c = .ok) ∧ (unpowered r → t.mstate = r.mstate ∧ c = .errState)
  | .setref _ => t.mstate = r.mstate ∧ c = .ok
  | .tick =>
    c = .ok ∧
    (powered r ∧ cfg.STALL_TICKS.toNat ≤ r.stall_cnt.toNat + 1 → t.mstate = .fault) ∧
    (unpowered r ∨ r.stall_cnt.toNat + 1 < cfg.STALL_TICKS.toNat → t.mstate = r.mstate) ∧
    (unpowered r → t.stall_cnt = r.stall_cnt)
  | .hall _ pat =>
    (unpowered r → t.mstate = r.mstate ∧ c = .errState) ∧
    (powered r → c = .ok ∧ (invalidPattern pat → t.mstate = .fault) ∧ (¬ invalidPattern pat → t.mstate = .running))
  | .offdiag r0 r1 r2 =>
    (r.mstate = .off → t.mstate = .off ∧ latched r0 r1 r2 t ∧ c = .ok) ∧
    (r.mstate = .starting ∧ ¬ failing r0 r1 r2 → t.mstate = .starting ∧ latched r0 r1 r2 t ∧ c = .ok) ∧
    (r.mstate = .running ∧ ¬ failing r0 r1 r2 → t.mstate = .running ∧ c = .errDiagPwm) ∧
    (powered r ∧ failing r0 r1 r2 → t.mstate = .fault ∧ c = .ok) ∧
    (r.mstate = .fault → t.mstate = .fault ∧ c = .errState)
  | .diagol o =>
    (r.mstate = .off → t.mstate = .off ∧ t.ol = o ∧ c = .ok) ∧
    (r.mstate = .starting ∧ o = true ∧ cfg.openLoadFatal = true → t.mstate = .fault ∧ c = .ok) ∧
    (r.mstate = .starting ∧ (o = false ∨ cfg.openLoadFatal = false) → t.mstate = .starting ∧ t.ol = o ∧ c = .ok) ∧
    (r.mstate = .running → t.mstate = .running ∧ c = .errDiagPwm) ∧
    (r.mstate = .fault → t.mstate = .fault ∧ c = .errState)
  | .mon chn kind =>
    c = .ok ∧
    (powered r ∧ r.ien.getLsbD (2 * chn.toNat + kind.toNat) = true → t.mstate = .fault) ∧
    (unpowered r ∨ r.ien.getLsbD (2 * chn.toNat + kind.toNat) = false →
      t.mstate = r.mstate ∧ t.sts.getLsbD (2 * chn.toNat + kind.toNat) = true)
  | .clrsts _ => t.mstate = r.mstate ∧ c = .ok
  | .setint _ _ => t.mstate = r.mstate ∧ c = .ok
  | .bSetbridge _ => t.mstate = r.mstate
  | .bSetch _ _ => t.mstate = r.mstate
  | .bClrsts _ => t.mstate = r.mstate
  | .bSetint _ _ => t.mstate = r.mstate
  | .bDiagol _ => t.mstate = r.mstate
  | .bOffdiag _ _ _ => t.mstate = r.mstate

/-- The causes of ERR_STATE (R271). -/
def AnswersErrState (i : Instr) (m : MotorState) : Prop :=
  (i = .start ∧ m ≠ .off) ∨ (i = .stop ∧ (m = .off ∨ m = .fault)) ∨
    ((∃ ts pat, i = .hall ts pat) ∧ (m = .off ∨ m = .fault)) ∨
    (((∃ r0 r1 r2, i = .offdiag r0 r1 r2) ∨ (∃ o, i = .diagol o)) ∧ m = .fault)

/-- The causes of ERR_DIAG_PWM (R271). -/
def AnswersErrDiagPwm (i : Instr) (m : MotorState) : Prop :=
  (i = .offdiag 0 0 0 ∨ ∃ o, i = .diagol o) ∧ m = .running

/-- The exact causes of each fault kind, the rows of the table of R270. -/
def Raises (i : Instr) (cfg : Cfg) (r : Regs) (k : FaultKind) : Prop :=
  (k = .sensorFault ∧ powered r ∧ ∃ ts pat, i = .hall ts pat ∧ invalidPattern pat) ∨
  (k = .stallTimeout ∧ powered r ∧ i = .tick ∧ cfg.STALL_TICKS.toNat ≤ r.stall_cnt.toNat + 1) ∨
  (k = .bridgeDiagnosisFault ∧ powered r ∧ ∃ r0 r1 r2, i = .offdiag r0 r1 r2 ∧ failing r0 r1 r2) ∨
  (k = .bridgeDiagnosisFault ∧ i = .start ∧ r.mstate = .off ∧ r.glob_fail = true) ∨
  (k = .bridgeDiagnosisFault ∧ powered r ∧
    ∃ chn kind, i = .mon chn kind ∧ r.ien.getLsbD (2 * chn.toNat + kind.toNat) = true) ∨
  (k = .openLoad ∧ cfg.openLoadFatal = true ∧
    ((i = .diagol true ∧ r.mstate = .starting) ∨ (i = .start ∧ r.mstate = .off ∧ r.ol = true ∧ r.glob_fail = false)))

/-- What is "recorded with" a fault (R270): `r` before the step, `t` after it. -/
def Recorded (i : Instr) (cfg : Cfg) (r t : Regs) : Prop :=
  match i with
  | .hall _ _ => t.sector = r.sector ∧ t.last_ts = r.last_ts
  | .tick => r.stall_cnt.toNat < cfg.STALL_TICKS.toNat → t.stall_cnt = cfg.STALL_TICKS
  | .offdiag r0 r1 r2 => latched r0 r1 r2 t ∧ t.glob_fail = true
  | .start => t.diag = r.diag ∧ t.ol = r.ol
  | .mon chn kind => t.sts.getLsbD (2 * chn.toNat + kind.toNat) = true
  | .diagol _ => t.ol = true
  | _ => True

/-- R204, R276: `t` is `r` but for the fault entry's own writes (image, `mstate`, `fault_kind`) and the registers that the
paragraphs of the faulting instruction before its `enter_fault` write: for TICK the stall count, for OFFDIAG and DIAGOL the
latch, for MON the status bits, for START the priming writes. -/
def FaultKeepsRest (i : Instr) (r t : Regs) : Prop :=
  let t' : Regs := { t with ch := r.ch, mstate := r.mstate, fault_kind := r.fault_kind }
  match i with
  | .init => t' = r
  | .start =>
    { t' with
      integ := r.integ, pi_out := r.pi_out, sector_valid := r.sector_valid, period_valid := r.period_valid
      stall_cnt := r.stall_cnt, dir_cmd := r.dir_cmd } = r
  | .stop => t' = r
  | .setref _ => t' = r
  | .tick => { t' with stall_cnt := r.stall_cnt } = r
  | .hall _ _ => t' = r
  | .offdiag _ _ _ => { t' with diag := r.diag, glob_fail := r.glob_fail } = r
  | .diagol _ => { t' with ol := r.ol } = r
  | .mon _ _ => { t' with sts := r.sts } = r
  | .clrsts _ => t' = r
  | .setint _ _ => t' = r
  | .bSetbridge _ => t' = r
  | .bSetch _ _ => t' = r
  | .bClrsts _ => t' = r
  | .bSetint _ _ => t' = r
  | .bDiagol _ => t' = r
  | .bOffdiag _ _ _ => t' = r

/-- `w` is `r` after the decoder writes of a valid sample of sector `sec` at time `ts`, by its class (R112, R113): a first
sample, a step forward, a step back, or a repeat or glitch. -/
def HallWrites (sec : Sector) (ts : BitVec 24) (r w : Regs) : Prop :=
  (r.sector_valid = false →
    w = { r with sector := sec, sector_valid := true, last_ts := ts, stall_cnt := 0 }) ∧
  (r.sector_valid = true ∧ sec.val = (r.sector.val + 1) % 6 →
    w = { r with dir_obs := .forward, period := ts - r.last_ts, period_valid := true, sector := sec, last_ts := ts,
                 stall_cnt := 0 }) ∧
  (r.sector_valid = true ∧ sec.val = (r.sector.val + 5) % 6 →
    w = { r with dir_obs := .reverse, period := ts - r.last_ts, period_valid := true, sector := sec, last_ts := ts,
                 stall_cnt := 0 }) ∧
  (r.sector_valid = true ∧ sec.val ≠ (r.sector.val + 1) % 6 ∧ sec.val ≠ (r.sector.val + 5) % 6 → w = r)

/-- The sample is accepted (R112): the first, or a step of one sector. -/
def acceptedSample (sec : Sector) (r : Regs) : Prop :=
  r.sector_valid = false ∨ sec.val = (r.sector.val + 1) % 6 ∨ sec.val = (r.sector.val + 5) % 6

end Sys2Proof.Safety
end

