-- ==== Sys2Proof/Certificates/Slice0/Obligations.lean ====
section
/-! DEFINITION. The statements, from the numbered rules of the spec. -/

open Sys2Proof Sys2Proof.Machine Sys2Proof.Safety

/-! ## Encoding (30_encoding.md) -/

/-- R81, R82, R84: decoding the word of a well-formed instruction gives the instruction back, on both ports. -/
def Obligations.DecodeInvertsEncode : Prop := ∀ i : Instr, i.WellFormed → decode (encode i) = .ok i

/-- R80, R81, R84: a word that decodes is the word of the instruction it decodes to, which is well formed; so no bit of a
word is dropped, and no two words decode to one instruction. -/
def Obligations.EncodeInvertsDecode : Prop :=
  ∀ (f : PortWord) (i : Instr), decode f = .ok i → encode i = f ∧ i.WellFormed

/-- Five event words of 95_test_vectors.md L2.1, the event word of R113's example, and two BOP words, which the spec does not
write out: they are put together from the fields of R84 for the examples of R231 and R232. -/
def Obligations.SpecWordsDecode : Prop :=
  decode ⟨.evt, 0x10000000⟩ = .ok .init ∧
  decode ⟨.evt, 0x4000F830⟩ = .ok (.setref (-2000)) ∧
  decode ⟨.evt, 0x60006D63⟩ = .ok (.hall 3500 0b011) ∧
  decode ⟨.evt, 0x70000009⟩ = .ok (.offdiag 1 2 0) ∧
  decode ⟨.evt, 0x9000000D⟩ = .ok (.mon 5 true) ∧
  decode ⟨.evt, 0xB0000009⟩ = .ok (.setint 1 1) ∧
  decode ⟨.bop, 0x10000050⟩ = .ok (.bSetbridge 0x00050) ∧
  decode ⟨.bop, 0x20000011⟩ = .ok (.bSetch 1 2)

/-- R83: a reserved event word changes nothing but the response, and every other word is an event. -/
def Obligations.ReservedEventWordsRefused : Prop :=
  ∀ (s : State) (w : Word) (rest : List PortWord), s.pending = ⟨.evt, w⟩ :: rest →
    (ReservedEvent w → step s = .next { s with pending := rest, resp := some .errReserved }) ∧
    (¬ ReservedEvent w → ∃ i, decode ⟨.evt, w⟩ = .ok i)

/-- R84: a reserved BOP word leaves every register unchanged. -/
def Obligations.ReservedBopWordsChangeNothing : Prop :=
  ∀ (s : State) (w : Word) (rest : List PortWord), s.pending = ⟨.bop, w⟩ :: rest →
    (∀ i, decode ⟨.bop, w⟩ ≠ .ok i) → ∃ ret, step s = .next { s with pending := rest, bop_ret := ret }

/-- R62, R63: four bytes of a transport, least significant first, are the word they were cut from; fewer are none. -/
def Obligations.TransportBytesLittleEndian : Prop :=
  (∀ (w : Word) (rest : List (BitVec 8)), wordOfBytes (wordBytes w ++ rest) = some (w, rest)) ∧
  (∀ (b : BitVec 8) (bs rest : List (BitVec 8)) (w : Word), wordOfBytes (b :: bs) = some (w, rest) →
    w.toNat % 256 = b.toNat) ∧
  (∀ bs : List (BitVec 8), bs.length < 4 → wordOfBytes bs = none)

/-- R92: the packed image is the sum of the channel codes times powers of 8; the two named images. -/
def Obligations.PackedImageIsSumOfCodes : Prop :=
  (∀ g : Image, (packImage g).toNat =
    (configCode g.x0).toNat + (configCode g.x1).toNat * 8 ^ 1 + (configCode g.x2).toNat * 8 ^ 2 +
      (configCode g.x3).toNat * 8 ^ 3 + (configCode g.x4).toNat * 8 ^ 4 + (configCode g.x5).toNat * 8 ^ 5) ∧
  packImage allOff = 0x00000 ∧ packImage allEn = 0x09249 ∧
  (∀ g : Image, unpackImage (packImage g) = some g)

/-! ## The step (00_scope.md, 20_memory.md) -/

/-- R66, R81: the step at a pending word that decodes is the meaning of its instruction, the word taken. -/
def Obligations.StepRunsDecodedInstruction : Prop :=
  ∀ (s : State) (f : PortWord) (rest : List PortWord) (i : Instr),
    s.pending = f :: rest → decode f = .ok i → step s = exec i { s with pending := rest }

/-- R6, R37, R67: every step answers a next state, takes exactly the first pending word and never writes the
configuration; with no word presented nothing changes (R63, "the block takes no step"; log entry 3). -/
def Obligations.EveryStepTakesOneWord : Prop :=
  ∀ s : State, ∃ t, step s = .next t ∧ t.pending = s.pending.tail ∧ t.cfg = s.cfg ∧ (s.pending = [] → t = s)

/-- R66, R67: a run never stops, takes the pending words in their order, each once, and keeps the configuration. -/
def Obligations.RunTakesEachWordOnce : Prop :=
  ∀ (n : Nat) (s : State), ∃ t : State,
    Host.Core.run core n s = .next t ∧ t.pending = s.pending.drop n ∧ t.cfg = s.cfg

/-! ## Supervisor (44_supervisor.md) -/

/-- R201, R44: INIT gives the reset value of every register, from any state, and power-on reset gives the same. -/
def Obligations.InitRestoresReset : Prop :=
  ∃ T : Regs,
    T.mstate = .off ∧ T.fault_kind = .none ∧ T.ref_speed = 0 ∧ T.integ = 0 ∧ T.pi_out = 0 ∧ T.sector = 0 ∧
    T.sector_valid = false ∧ T.dir_cmd = .forward ∧ T.dir_obs = .forward ∧ T.last_ts = 0 ∧ T.period = 0 ∧
    T.period_valid = false ∧ T.stall_cnt = 0 ∧ T.duty = 0 ∧ (∀ c, T.ch.get c = .off) ∧ T.sts = 0 ∧ T.ien = 0 ∧
    T.diag = ⟨.ok, .ok, .ok⟩ ∧ T.glob_fail = false ∧ T.ol = false ∧ State.reset.regs = T ∧
    ∀ s : State, exec .init s = .next { s with regs := T, resp := some .ok }

/-- R202: START, in every `mstate` and for every latched diagnosis. -/
def Obligations.StartPrimesAndEnables : Prop :=
  ∀ s : State,
    (s.regs.mstate ≠ .off → exec .start s = .next { s with resp := some .errState }) ∧
    (s.regs.mstate = .off → ∃ d : Direction, (d = .reverse ↔ s.regs.ref_speed.toInt < 0) ∧
      (s.regs.glob_fail = true → exec .start s = .next { s with
        regs := { s.regs with
          integ := 0, pi_out := 0, sector_valid := false, period_valid := false, stall_cnt := 0, dir_cmd := d
          ch := Six.replicate .off, mstate := .fault, fault_kind := .bridgeDiagnosisFault }
        resp := some .ok }) ∧
      (s.regs.glob_fail = false ∧ s.regs.ol = true ∧ s.cfg.openLoadFatal = true → exec .start s = .next { s with
        regs := { s.regs with
          integ := 0, pi_out := 0, sector_valid := false, period_valid := false, stall_cnt := 0, dir_cmd := d
          ch := Six.replicate .off, mstate := .fault, fault_kind := .openLoad }
        resp := some .ok }) ∧
      (s.regs.glob_fail = false ∧ (s.regs.ol = false ∨ s.cfg.openLoadFatal = false) → exec .start s = .next { s with
        regs := { s.regs with
          integ := 0, pi_out := 0, sector_valid := false, period_valid := false, stall_cnt := 0, dir_cmd := d
          ch := Six.replicate .enabled, mstate := .starting }
        resp := some .ok }))

/-- R203: STOP writes the image and `mstate` only, from Starting and Running only. -/
def Obligations.StopSwitchesBridgeOff : Prop :=
  ∀ s : State,
    (powered s.regs → exec .stop s = .next { s with
      regs := { s.regs with ch := Six.replicate .off, mstate := .off }, resp := some .ok }) ∧
    (unpowered s.regs → exec .stop s = .next { s with resp := some .errState })

/-- R200: the whole table of events and states, with its response and its latches, and its row of reserved words. -/
def Obligations.TransitionTable : Prop :=
  (∀ (i : Instr) (s : State), i.port = .evt → i.WellFormed →
    ∃ t c, exec i s = .next t ∧ t.resp = some c ∧ TableCell i s.cfg s.regs t.regs c) ∧
  (∀ (s : State) (w : Word) (rest : List PortWord), s.pending = ⟨.evt, w⟩ :: rest → ReservedEvent w →
    ∃ t, step s = .next t ∧ t.regs.mstate = s.regs.mstate ∧ t.resp = some .errReserved)

/-- R205: Running is entered only by a HALL with a valid pattern in Starting, which writes the initial duty and commits
the entry of that sample's sector. -/
def Obligations.RunningEnteredByValidHallOnly : Prop :=
  ∀ (i : Instr) (s t : State), Inv s → exec i s = .next t → s.regs.mstate ≠ .running →
    (t.regs.mstate = .running ↔
      s.regs.mstate = .starting ∧ ∃ ts pat, i = .hall ts pat ∧ ¬ invalidPattern pat) ∧
    (∀ ts pat, i = .hall ts pat → t.regs.mstate = .running →
      (∀ k : Fin 6, pat.toNat = k.val + 1 → t.regs.sector = s.cfg.HALL_MAP.get k) ∧
      (t.regs.duty.toNat : Int) = outStage s.cfg s.cfg.initDuty.toNat ∧
      t.regs.ch = commEntry s.cfg t.regs.sector s.regs.dir_cmd)

/-- R206, R134: an event changes the image only to all Off ending in Off or Fault, to all Enabled ending in Starting, or
(a HALL alone) to the committed table entry ending in Running. -/
def Obligations.ImageChangesOnlyThroughGate : Prop :=
  ∀ (i : Instr) (s t : State), i.port = .evt → exec i s = .next t →
    t.regs.ch = s.regs.ch ∨
    (t.regs.ch = allOff ∧ unpowered t.regs) ∨
    (t.regs.ch = allEn ∧ t.regs.mstate = .starting ∧ i = .start) ∨
    (t.regs.ch = commEntry s.cfg t.regs.sector t.regs.dir_cmd ∧ t.regs.mstate = .running ∧ ∃ ts pat, i = .hall ts pat)

/-! ## Hall decoder (40_hall_decoder.md) -/

/-- R113, R112, R111: HALL, in every `mstate`, for every pattern and every class of sample. -/
def Obligations.HallTakesSample : Prop :=
  ∀ (s : State) (ts : BitVec 24) (pat : BitVec 3),
    (unpowered s.regs → exec (.hall ts pat) s = .next { s with resp := some .errState }) ∧
    (powered s.regs ∧ invalidPattern pat → exec (.hall ts pat) s = .next { s with
      regs := { s.regs with ch := Six.replicate .off, mstate := .fault, fault_kind := .sensorFault }
      resp := some .ok }) ∧
    (∀ k : Fin 6, pat.toNat = k.val + 1 → ∃ w, HallWrites (s.cfg.HALL_MAP.get k) ts s.regs w ∧
      (s.regs.mstate = .starting → exec (.hall ts pat) s = .next { s with
        regs := { w with
          mstate := .running, duty := BitVec.ofInt 16 (outStage s.cfg s.cfg.initDuty.toNat)
          ch := commEntry s.cfg w.sector s.regs.dir_cmd }
        resp := some .ok }) ∧
      (s.regs.mstate = .running ∧ acceptedSample (s.cfg.HALL_MAP.get k) s.regs → exec (.hall ts pat) s = .next { s with
        regs := { w with ch := commEntry s.cfg w.sector s.regs.dir_cmd }, resp := some .ok }) ∧
      (s.regs.mstate = .running ∧ ¬ acceptedSample (s.cfg.HALL_MAP.get k) s.regs → exec (.hall ts pat) s = .next { s with
        resp := some .ok }))

/-- R114: `sector` changes only on an accepted HALL sample, by one step modulo 6 once a sector is established (INIT alone
writes it besides, with its reset value); and on a first sample, a step forward and a step back it does become the sector
of the sample. The class of a sample is written out from R112. -/
def Obligations.SectorChangesByOneStep : Prop :=
  (∀ (i : Instr) (s t : State), exec i s = .next t →
    t.regs.sector = s.regs.sector ∨ (i = .init ∧ t.regs.sector = 0) ∨
    (∃ ts pat, i = .hall ts pat ∧ ¬ invalidPattern pat ∧ powered s.regs ∧
      ((s.regs.sector_valid = false ∧ t.regs.sector_valid = true) ∨
       (t.regs.sector.val = (s.regs.sector.val + 1) % 6 ∧ t.regs.dir_obs = .forward) ∨
       (t.regs.sector.val = (s.regs.sector.val + 5) % 6 ∧ t.regs.dir_obs = .reverse)))) ∧
  (∀ (s : State) (ts : BitVec 24) (pat : BitVec 3) (k : Fin 6), powered s.regs → pat.toNat = k.val + 1 →
    ∃ t, exec (.hall ts pat) s = .next t ∧
      (s.regs.sector_valid = false → t.regs.sector = s.cfg.HALL_MAP.get k) ∧
      (s.regs.sector_valid = true ∧ (s.cfg.HALL_MAP.get k).val = (s.regs.sector.val + 1) % 6 →
        t.regs.sector.val = (s.regs.sector.val + 1) % 6 ∧ t.regs.dir_obs = .forward) ∧
      (s.regs.sector_valid = true ∧ (s.cfg.HALL_MAP.get k).val = (s.regs.sector.val + 5) % 6 →
        t.regs.sector.val = (s.regs.sector.val + 5) % 6 ∧ t.regs.dir_obs = .reverse) ∧
      (¬ acceptedSample (s.cfg.HALL_MAP.get k) s.regs → t.regs.sector = s.regs.sector))

/-! ## Commutation and output stage (41_commutation.md, 42_pwm_output.md) -/

/-- R132, R136: a well-formed entry has exactly one active high side and exactly one active low side, and no leg with
both sides active. -/
def Obligations.TableEntriesNeverShootThrough : Prop :=
  ∀ g : Image, wfEntry g →
    ¬ shootThrough g ∧ (∃! a : Fin 3, active (g.get (highSide a)) = true) ∧
      (∃! b : Fin 3, active (g.get (lowSide b)) = true) ∧
      ∃ a : Fin 3, activePwmChannel g = some (highSide a)

/-- R39, R111, R131: the configuration CFG_T with the default tables is well-formed. -/
def Obligations.DefaultConfigurationWellFormed : Prop := WfCfg cfgT

/-- R150: the two clamps in sequence, their range, when the outer one changes nothing, and the rule's six values. -/
def Obligations.OutputStageClampsTwice : Prop :=
  (∀ (cfg : Cfg) (d : Int),
    outStage cfg d = min (max (min (max d cfg.speedIMin.toInt) cfg.speedIMax.toInt) 0) cfg.pwmPeriod.toNat ∧
    0 ≤ outStage cfg d ∧ outStage cfg d ≤ cfg.pwmPeriod.toNat ∧
    ((BitVec.ofInt 16 (outStage cfg d)).toNat : Int) = outStage cfg d ∧
    (0 ≤ cfg.speedIMin.toInt ∧ cfg.speedIMin.toInt ≤ cfg.speedIMax.toInt ∧
        cfg.speedIMax.toInt ≤ cfg.pwmPeriod.toNat →
      outStage cfg d = min (max d cfg.speedIMin.toInt) cfg.speedIMax.toInt)) ∧
  outStage cfgT (-5) = 0 ∧ outStage cfgT 8 = 8 ∧ outStage cfgT 40 = 40 ∧ outStage cfgT 41 = 40 ∧
  outStage cfgT 75 = 40 ∧ outStage cfgT 1000 = 40

/-- R151, R153, R155: `duty` is written by HALL and TICK in steps that end in Running, and by INIT's reset, and by nothing
else. -/
def Obligations.DutyWrittenOnlyInRunning : Prop :=
  ∀ (i : Instr) (s t : State), exec i s = .next t → t.regs.duty ≠ s.regs.duty →
    (t.regs.mstate = .running ∧ (i = .tick ∨ ∃ ts pat, i = .hall ts pat)) ∨ (i = .init ∧ t.regs.duty = 0)

/-! ## Speed controller (43_pi_speed.md) -/

/-- R170: SETREF writes `ref_speed` and nothing else, in every `mstate`. -/
def Obligations.SetrefWritesReferenceOnly : Prop :=
  ∀ (s : State) (v : Int), -32768 ≤ v → v ≤ 32767 →
    ∃ t, exec (.setref (BitVec.ofInt 16 v)) s = .next t ∧ t.regs.ref_speed.toInt = v ∧ t.resp = some .ok ∧
      { t with regs := { t.regs with ref_speed := s.regs.ref_speed }, resp := s.resp } = s

/-- R172, R174: the measured speed, and the error formed from magnitudes without wrap, in -32767..32768. -/
def Obligations.SpeedErrorFromMagnitudes : Prop :=
  ∀ (cfg : Cfg) (r : Regs),
    (0 ≤ r.ref_speed.toInt → speedError cfg r = r.ref_speed.toInt - speedMeas cfg r) ∧
    (r.ref_speed.toInt < 0 → speedError cfg r = -r.ref_speed.toInt - speedMeas cfg r) ∧
    (r.period_valid = false → speedMeas cfg r = 0) ∧
    (r.period_valid = true → speedMeas cfg r = ((speedOf cfg r.period).toNat : Int)) ∧
    0 ≤ speedMeas cfg r ∧ speedMeas cfg r ≤ 32767 ∧
    -32767 ≤ speedError cfg r ∧ speedError cfg r ≤ 32768

/-- R175: the PI step; `raw` is the floor of its quotient by 2^Q. -/
def Obligations.PiStepClampsIntegratorAndOutput : Prop :=
  ∀ (cfg : Cfg) (integ e : Int), ∃ acc raw : Int,
    acc = min (max (integ + cfg.speedKi.toNat * e) (cfg.speedIMin.toInt * 2 ^ cfg.PI_FRAC.val))
      (cfg.speedIMax.toInt * 2 ^ cfg.PI_FRAC.val) ∧
    raw * 2 ^ cfg.PI_FRAC.val ≤ cfg.speedKp.toNat * e + acc ∧
    cfg.speedKp.toNat * e + acc < (raw + 1) * 2 ^ cfg.PI_FRAC.val ∧
    piStep cfg integ e = (acc, min (max raw cfg.speedPiMin.toInt) cfg.speedPiMax.toInt)

/-- R176, R24, R25: the registers hold the PI results exactly; no configuration makes a stored value wrap. -/
def Obligations.PiResultsFitRegisters : Prop :=
  ∀ (cfg : Cfg) (integ e : Int),
    (BitVec.ofInt 48 (piStep cfg integ e).1).toInt = (piStep cfg integ e).1 ∧
    (BitVec.ofInt 16 (piStep cfg integ e).2).toInt = (piStep cfg integ e).2

/-- R177: TICK, in every `mstate`, below and at the stall limit. `c` is the incremented count. -/
def Obligations.TickCountsAndRunsPi : Prop :=
  ∀ s : State,
    (unpowered s.regs → exec .tick s = .next { s with resp := some .ok }) ∧
    (powered s.regs → ∃ (c : BitVec 16) (d : Direction),
      (s.regs.stall_cnt.toNat < 65535 → c.toNat = s.regs.stall_cnt.toNat + 1) ∧
      (d = .reverse ↔ s.regs.ref_speed.toInt < 0) ∧
      (s.cfg.STALL_TICKS.toNat ≤ s.regs.stall_cnt.toNat + 1 → exec .tick s = .next { s with
        regs := { s.regs with
          stall_cnt := c, ch := Six.replicate .off, mstate := .fault, fault_kind := .stallTimeout }
        resp := some .ok }) ∧
      (s.regs.stall_cnt.toNat + 1 < s.cfg.STALL_TICKS.toNat →
        (s.regs.mstate = .starting → exec .tick s = .next { s with
          regs := { s.regs with stall_cnt := c, dir_cmd := d }, resp := some .ok }) ∧
        (s.regs.mstate = .running → ∀ acc out : Int,
          piStep s.cfg s.regs.integ.toInt (speedError s.cfg s.regs) = (acc, out) → exec .tick s = .next { s with
            regs := { s.regs with
              stall_cnt := c, dir_cmd := d, integ := BitVec.ofInt 48 acc, pi_out := BitVec.ofInt 16 out
              duty := BitVec.ofInt 16 (outStage s.cfg out) }
            resp := some .ok })))

/-- R179: after a TICK that ran the PI step, integrator and output are in their limits whatever the error was; under the
limits of CFG_T the duty is `min(pi_out, 40)`, in 8..40. -/
def Obligations.ClampsHoldAfterEveryPiStep : Prop :=
  ∀ s : State, WfCfg s.cfg → s.regs.mstate = .running →
    s.regs.stall_cnt.toNat + 1 < s.cfg.STALL_TICKS.toNat →
    ∃ t, exec .tick s = .next t ∧
      s.cfg.speedIMin.toInt * 2 ^ s.cfg.PI_FRAC.val ≤ t.regs.integ.toInt ∧
      t.regs.integ.toInt ≤ s.cfg.speedIMax.toInt * 2 ^ s.cfg.PI_FRAC.val ∧
      s.cfg.speedPiMin.toInt ≤ t.regs.pi_out.toInt ∧ t.regs.pi_out.toInt ≤ s.cfg.speedPiMax.toInt ∧
      (s.cfg.speedIMin = 0 ∧ s.cfg.speedIMax = 75 ∧ s.cfg.speedPiMin = 8 ∧ s.cfg.speedPiMax = 75 ∧
          s.cfg.pwmPeriod = 40 →
        (t.regs.duty.toNat : Int) = min t.regs.pi_out.toInt 40 ∧ 8 ≤ t.regs.duty.toNat ∧ t.regs.duty.toNat ≤ 40)

/-- R180: with the error 0 an integrator inside its limits is a fixed point of the PI step and the output is constant. -/
def Obligations.PiStepFixedPointAtZeroError : Prop :=
  ∀ (cfg : Cfg) (integ : Int),
    cfg.speedIMin.toInt * 2 ^ cfg.PI_FRAC.val ≤ integ → integ ≤ cfg.speedIMax.toInt * 2 ^ cfg.PI_FRAC.val →
    (piStep cfg integ 0).1 = integ ∧ piStep cfg (piStep cfg integ 0).1 0 = piStep cfg integ 0

/-- R178: from Starting or Running, as many TICKs as the count lacks of STALL_TICKS, with nothing between them, end in
Fault with StallTimeout and the bridge all Off. -/
def Obligations.StallTimeoutAfterStallTicks : Prop :=
  ∀ (n : Nat) (s : State) (rest : List PortWord), powered s.regs →
    s.regs.stall_cnt.toNat + (n + 1) = s.cfg.STALL_TICKS.toNat →
    s.pending = List.replicate (n + 1) (encode .tick) ++ rest →
    ∃ t : State, Host.Core.run core (n + 1) s = .next t ∧ t.regs.mstate = .fault ∧ t.regs.fault_kind = .stallTimeout ∧
      t.regs.stall_cnt = s.cfg.STALL_TICKS ∧ (∀ c, t.regs.ch.get c = .off) ∧ t.pending = rest

/-! ## BDRV layer: events (45_bdrv.md) -/

/-- R237: OFFDIAG, in every `mstate`, for every operand. -/
def Obligations.OffdiagLatchesAndFaults : Prop :=
  ∀ (s : State) (r0 r1 r2 : BitVec 2),
    (r0 = 3 ∨ r1 = 3 ∨ r2 = 3 → exec (.offdiag r0 r1 r2) s = .next { s with resp := some .errReserved }) ∧
    (∀ (d : DiagFields) (g : Bool), d.p0.code = r0 → d.p1.code = r1 → d.p2.code = r2 → (g = true ↔ failing r0 r1 r2) →
      (s.regs.mstate = .off → exec (.offdiag r0 r1 r2) s = .next { s with
        regs := { s.regs with diag := d, glob_fail := g }, resp := some .ok }) ∧
      (s.regs.mstate = .starting ∧ g = false → exec (.offdiag r0 r1 r2) s = .next { s with
        regs := { s.regs with diag := d, glob_fail := false }, resp := some .ok }) ∧
      (s.regs.mstate = .running ∧ g = false → exec (.offdiag r0 r1 r2) s = .next { s with
        resp := some .errDiagPwm }) ∧
      (powered s.regs ∧ g = true → exec (.offdiag r0 r1 r2) s = .next { s with
        regs := { s.regs with
          diag := d, glob_fail := true, ch := Six.replicate .off, mstate := .fault
          fault_kind := .bridgeDiagnosisFault }
        resp := some .ok }) ∧
      (s.regs.mstate = .fault → exec (.offdiag r0 r1 r2) s = .next { s with resp := some .errState }))

/-- R238: DIAGOL, in every `mstate`, under either policy. -/
def Obligations.DiagolLatchesAndFaults : Prop :=
  ∀ (s : State) (o : Bool),
    (s.regs.mstate = .off → exec (.diagol o) s = .next { s with
      regs := { s.regs with ol := o }, resp := some .ok }) ∧
    (s.regs.mstate = .starting ∧ (o = false ∨ s.cfg.openLoadFatal = false) → exec (.diagol o) s = .next { s with
      regs := { s.regs with ol := o }, resp := some .ok }) ∧
    (s.regs.mstate = .starting ∧ o = true ∧ s.cfg.openLoadFatal = true → exec (.diagol o) s = .next { s with
      regs := { s.regs with
        ol := true, ch := Six.replicate .off, mstate := .fault, fault_kind := .openLoad }
      resp := some .ok }) ∧
    (s.regs.mstate = .running → exec (.diagol o) s = .next { s with resp := some .errDiagPwm }) ∧
    (s.regs.mstate = .fault → exec (.diagol o) s = .next { s with resp := some .errState })

/-- R239: MON sets one sticky status bit in every `mstate` and forces Fault only where the bit is enabled and the bridge is
powered; channels 6 and 7 are reserved. -/
def Obligations.MonSetsStatusAndFaults : Prop :=
  ∀ (s : State) (chn : BitVec 3) (kind : Bool),
    (5 < chn.toNat → exec (.mon chn kind) s = .next { s with resp := some .errReserved }) ∧
    (chn.toNat ≤ 5 → ∃ b sts', b = 2 * chn.toNat + kind.toNat ∧
      (∀ j < 12, BitVec.getLsbD sts' j = (s.regs.sts.getLsbD j || j == b)) ∧
      (s.regs.ien.getLsbD b = true ∧ powered s.regs → exec (.mon chn kind) s = .next { s with
        regs := { s.regs with
          sts := sts', ch := Six.replicate .off, mstate := .fault, fault_kind := .bridgeDiagnosisFault }
        resp := some .ok }) ∧
      (s.regs.ien.getLsbD b = false ∨ unpowered s.regs → exec (.mon chn kind) s = .next { s with
        regs := { s.regs with sts := sts' }, resp := some .ok }))

/-- R240, R233: CLRSTS, and B.CLRSTS on the BOP port, clear the status bits written 1 and, with bit 12, the open-load
latch, in every `mstate`, and nothing else. -/
def Obligations.StatusClearedByWritingOnes : Prop :=
  ∀ (s : State) (bits : BitVec 13), ∃ (sts' : BitVec 12) (ol' : Bool),
    (∀ j < 12, sts'.getLsbD j = (s.regs.sts.getLsbD j && !bits.getLsbD j)) ∧
    ol' = (s.regs.ol && !bits.getLsbD 12) ∧
    exec (.clrsts bits) s = .next { s with regs := { s.regs with sts := sts', ol := ol' }, resp := some .ok } ∧
    exec (.bClrsts bits) s = .next { s with regs := { s.regs with sts := sts', ol := ol' }, bop_ret := .noValue }

/-- R241, R234: SETINT, and B.SETINT on the BOP port, replace the two enable bits of one channel, in every `mstate`, and
change nothing else; channels 6 and 7 change nothing. -/
def Obligations.EnableBitsReplacedPerChannel : Prop :=
  ∀ (s : State) (chn : BitVec 3) (which : BitVec 2),
    (5 < chn.toNat → exec (.setint chn which) s = .next { s with resp := some .errReserved } ∧
      exec (.bSetint chn which) s = .next { s with bop_ret := .noValue }) ∧
    (chn.toNat ≤ 5 → ∃ ien' : BitVec 12,
      ien'.getLsbD (2 * chn.toNat) = which.getLsbD 0 ∧ ien'.getLsbD (2 * chn.toNat + 1) = which.getLsbD 1 ∧
      (∀ j < 12, j ≠ 2 * chn.toNat → j ≠ 2 * chn.toNat + 1 → ien'.getLsbD j = s.regs.ien.getLsbD j) ∧
      exec (.setint chn which) s = .next { s with regs := { s.regs with ien := ien' }, resp := some .ok } ∧
      exec (.bSetint chn which) s = .next { s with regs := { s.regs with ien := ien' }, bop_ret := .noValue })

/-! ## BDRV layer: operations (45_bdrv.md) -/

/-- R231: B.SETBRIDGE writes all six fields or, if a field is 5, 6 or 7, none. -/
def Obligations.SetbridgeWritesWholeImage : Prop :=
  ∀ (s : State) (img : BitVec 18),
    ((∃ i : Fin 6, 5 ≤ img.toNat / 8 ^ i.val % 8) → exec (.bSetbridge img) s = .next { s with bop_ret := .noValue }) ∧
    ((∀ i : Fin 6, img.toNat / 8 ^ i.val % 8 ≤ 4) → ∃ g : Image,
      (∀ i : Fin 6, (configCode (g.get i)).toNat = img.toNat / 8 ^ i.val % 8) ∧
      exec (.bSetbridge img) s = .next { s with regs := { s.regs with ch := g }, bop_ret := .noValue })

/-- R232: B.SETCH writes one field, or nothing for an operand out of range. -/
def Obligations.SetchWritesOneField : Prop :=
  ∀ (s : State) (chn cfgv : BitVec 3),
    (5 < chn.toNat ∨ 4 < cfgv.toNat → exec (.bSetch chn cfgv) s = .next { s with bop_ret := .noValue }) ∧
    (chn.toNat ≤ 5 ∧ cfgv.toNat ≤ 4 → ∃ g : Image,
      (∀ c : Channel, c.val = chn.toNat → configCode (g.get c) = cfgv) ∧
      (∀ c : Channel, c.val ≠ chn.toNat → g.get c = s.regs.ch.get c) ∧
      exec (.bSetch chn cfgv) s = .next { s with regs := { s.regs with ch := g }, bop_ret := .noValue })

/-- R235, R236: B.DIAGOL latches its answer and returns it; B.OFFDIAG latches the answers and the computed global flag
and returns them, or, for a reserved answer, does nothing and returns `invalid`. -/
def Obligations.BopDiagnosisLatchesAnswers : Prop :=
  ∀ s : State,
    (∀ o : Bool, exec (.bDiagol o) s = .next { s with regs := { s.regs with ol := o }, bop_ret := .openLoad o }) ∧
    (∀ r0 r1 r2 : BitVec 2,
      (r0 = 3 ∨ r1 = 3 ∨ r2 = 3 → exec (.bOffdiag r0 r1 r2) s = .next { s with bop_ret := .invalid }) ∧
      (∀ (d : DiagFields) (g : Bool), d.p0.code = r0 → d.p1.code = r1 → d.p2.code = r2 →
        (g = true ↔ failing r0 r1 r2) →
        exec (.bOffdiag r0 r1 r2) s = .next { s with
          regs := { s.regs with diag := d, glob_fail := g }, bop_ret := .diagResult d g }))

/-- R230: an operation of the BOP port changes no register but the layer's own, and no other output. -/
def Obligations.BopChangesOnlyBdrvRegisters : Prop :=
  ∀ (i : Instr) (s : State), i.port = .bop → ∃ t, exec i s = .next t ∧
    { t with
      regs := { t.regs with
        ch := s.regs.ch, sts := s.regs.sts, ien := s.regs.ien, diag := s.regs.diag, glob_fail := s.regs.glob_fail
        ol := s.regs.ol }
      bop_ret := s.bop_ret } = s

/-- R242: in every state that meets the invariant, PWM output is active exactly in Running. -/
def Obligations.PwmActiveExactlyInRunning : Prop :=
  ∀ s : State, Inv s → (pwmActive s.regs.ch ↔ s.regs.mstate = .running)

/-! ## Faults and responses (60_exceptions.md) -/

/-- R271: the response of every event word, each code with exactly its causes, and no change of S without OK. -/
def Obligations.ResponseCodesHaveTheirCauses : Prop :=
  Resp.ok.code = 0 ∧ Resp.errState.code = 1 ∧ Resp.errReserved.code = 2 ∧ Resp.errDiagPwm.code = 3 ∧
  ∀ (s : State) (w : Word) (rest : List PortWord), s.pending = ⟨.evt, w⟩ :: rest → ∃ t, step s = .next t ∧
    (t.resp = some .errReserved ↔ ReservedEvent w) ∧
    (t.resp = some .errState ↔ ∃ i, decode ⟨.evt, w⟩ = .ok i ∧ AnswersErrState i s.regs.mstate) ∧
    (t.resp = some .errDiagPwm ↔ ∃ i, decode ⟨.evt, w⟩ = .ok i ∧ AnswersErrDiagPwm i s.regs.mstate) ∧
    t.resp ≠ none ∧ (t.resp ≠ some .ok → t.regs = s.regs)

/-- R270: the fault kinds, their codes, their exact causes and what is recorded with each. -/
def Obligations.FaultKindsHaveTheirCauses : Prop :=
  FaultKind.sensorFault.code = 1 ∧ FaultKind.stallTimeout.code = 2 ∧ FaultKind.bridgeDiagnosisFault.code = 3 ∧
  FaultKind.openLoad.code = 4 ∧
  ∀ (i : Instr) (s : State), i.WellFormed → s.regs.mstate ≠ .fault → ∃ t, exec i s = .next t ∧
    (∀ k, Raises i s.cfg s.regs k ↔ t.regs.mstate = .fault ∧ t.regs.fault_kind = k) ∧
    (t.regs.mstate = .fault → Recorded i s.cfg s.regs t.regs)

/-- R204, R276: the step that enters Fault leaves the bridge all Off, names the kind, raises `irq_fault`, and keeps every
register but those the faulting instruction writes before its `enter_fault`. -/
def Obligations.FaultStepSwitchesBridgeOff : Prop :=
  ∀ (i : Instr) (s t : State), exec i s = .next t → s.regs.mstate ≠ .fault → t.regs.mstate = .fault →
    (∀ c, t.regs.ch.get c = .off) ∧ t.regs.fault_kind ≠ .none ∧
    irqFault s.regs = false ∧ irqFault t.regs = true ∧ FaultKeepsRest i s.regs t.regs

/-- R278: in Fault no cause raises anything. HALL, OFFDIAG and DIAGOL answer ERR_STATE, TICK does not count, MON sets its
status bit only, and the kind is never overwritten before INIT. -/
def Obligations.NoSecondFaultInFault : Prop :=
  ∀ s : State, s.regs.mstate = .fault →
    (∀ ts pat, exec (.hall ts pat) s = .next { s with resp := some .errState }) ∧
    (∀ r0 r1 r2, Instr.WellFormed (.offdiag r0 r1 r2) →
      exec (.offdiag r0 r1 r2) s = .next { s with resp := some .errState }) ∧
    (∀ o, exec (.diagol o) s = .next { s with resp := some .errState }) ∧
    exec .tick s = .next { s with resp := some .ok } ∧
    (∀ chn kind, Instr.WellFormed (.mon chn kind) → ∃ sts' : BitVec 12,
      (∀ j < 12, sts'.getLsbD j = (s.regs.sts.getLsbD j || j == 2 * chn.toNat + kind.toNat)) ∧
      exec (.mon chn kind) s = .next { s with regs := { s.regs with sts := sts' }, resp := some .ok }) ∧
    (∀ i, i ≠ .init → ∃ t, exec i s = .next t ∧ t.regs.fault_kind = s.regs.fault_kind)

/-- R277: the only return from Fault is INIT; it restores nothing and clears everything. START alone does not leave
Fault, and the re-init is the sequence INIT, START (R94). -/
def Obligations.OnlyInitLeavesFault : Prop :=
  (∀ (i : Instr) (s t : State), s.regs.mstate = .fault → exec i s = .next t →
    (i = .init → t.regs = State.reset.regs) ∧ (i ≠ .init → t.regs.mstate = .fault)) ∧
  (∀ s : State, s.regs.mstate = .fault → exec .start s = .next { s with resp := some .errState }) ∧
  (∀ (s : State) (rest : List PortWord), s.pending = encode .init :: encode .start :: rest →
    ∃ t : State, Host.Core.run core 2 s = .next t ∧ t.pending = rest ∧
      t.regs = { State.reset.regs with mstate := .starting, ch := Six.replicate .enabled })

/-! ## Status port (10_state.md) -/

/-- R40, R42, R85 to R89: the four status words field by field, as numbers, and the codes their fields hold. -/
def Obligations.StatusPortLayout : Prop :=
  (MotorState.off.code = 0 ∧ MotorState.starting.code = 1 ∧ MotorState.running.code = 2 ∧ MotorState.fault.code = 3) ∧
  (FaultKind.none.code = 0 ∧ FaultKind.sensorFault.code = 1 ∧ FaultKind.stallTimeout.code = 2 ∧
    FaultKind.bridgeDiagnosisFault.code = 3 ∧ FaultKind.openLoad.code = 4) ∧
  (directionBit .forward = false ∧ directionBit .reverse = true) ∧
  (configCode .off = 0 ∧ configCode .enabled = 1 ∧ configCode .pwm = 2 ∧ configCode .staticOn = 3 ∧
    configCode .diagCurrentSource = 4 ∧ ∀ c : BitVec 3, configOfCode c = none ↔ 5 ≤ c.toNat) ∧
  (DiagPhase.ok.code = 0 ∧ DiagPhase.shortToGnd.code = 1 ∧ DiagPhase.shortToVBat.code = 2 ∧
    ∀ c : BitVec 2, diagOfCode c = none ↔ c = 3) ∧
  ∀ r : Regs,
    (irqFault r = true ↔ r.mstate = .fault) ∧
    (statusWord 0 r).toNat =
      r.mstate.code.toNat + r.fault_kind.code.toNat * 2 ^ 2 + r.sector.val * 2 ^ 5 + r.sector_valid.toNat * 2 ^ 8 +
      (directionBit r.dir_cmd).toNat * 2 ^ 9 + (directionBit r.dir_obs).toNat * 2 ^ 10 + r.ol.toNat * 2 ^ 11 +
      r.glob_fail.toNat * 2 ^ 12 + r.diag.p0.code.toNat * 2 ^ 13 + r.diag.p1.code.toNat * 2 ^ 15 +
      r.diag.p2.code.toNat * 2 ^ 17 + r.period_valid.toNat * 2 ^ 19 + (irqFault r).toNat * 2 ^ 20 ∧
    (statusWord 1 r).toNat = (packImage r.ch).toNat ∧
    (statusWord 2 r).toNat = r.duty.toNat + r.pi_out.toNat * 2 ^ 16 ∧
    (statusWord 3 r).toNat = r.sts.toNat + r.ien.toNat * 2 ^ 12

/-! ## Whole-machine invariants -/

/-- R45: every step keeps the invariant. -/
def Obligations.EveryStepKeepsInvariant : Prop := ∀ s t : State, Inv s → step s = .next t → Inv t

/-- R45, R310: the reset state under a well-formed configuration meets the invariant. -/
def Obligations.ResetMeetsInvariant : Prop := ∀ cfg : Cfg, WfCfg cfg → Inv (State.resetWith cfg)

/-- R45: for a well-formed configuration, every state reached from reset by any sequence of event words meets (a) to
(h). -/
def Obligations.ReachableStatesMeetInvariant : Prop :=
  ∀ (cfg : Cfg) (events : List Word) (n : Nat), WfCfg cfg → ∃ t : State,
    Host.Core.run core n { State.resetWith cfg with pending := events.map (PortWord.mk .evt) } = .next t ∧
      t.cfg = cfg ∧ RegInv cfg t.regs

/-- R25, R28: no rule reads `pi_out` or `dir_obs`; two states that differ in them only answer alike and differ in them
only. -/
def Obligations.StatusOnlyRegistersReadByNoRule : Prop :=
  ∀ (i : Instr) (s t : State) (o : BitVec 16) (d : Direction), exec i s = .next t → ∃ t',
    exec i { s with regs := { s.regs with pi_out := o, dir_obs := d } } = .next t' ∧
    { t' with regs := { t'.regs with pi_out := t.regs.pi_out, dir_obs := t.regs.dir_obs } } = t

/-- R37, R8: no rule reads `delayAngle`, `minSpeedDelay` or `TS_UNIT`. -/
def Obligations.UnusedConfigurationReadByNoRule : Prop :=
  ∀ (i : Instr) (s t : State) (a m : BitVec 16) (u : Nat), exec i s = .next t →
    exec i { s with cfg := { s.cfg with delayAngle := a, minSpeedDelay := m, TS_UNIT := u } } =
      .next { t with cfg := { t.cfg with delayAngle := a, minSpeedDelay := m, TS_UNIT := u } }

/-- R133, R202: in Starting the table's output function is all Off while the image is all Enabled; in Running the output
is the entry of the sector and the commanded direction. -/
def Obligations.TableOutputBeforeFirstSample : Prop :=
  ∀ s : State, Inv s →
    (s.regs.mstate = .starting → commOut s.cfg s.regs = Six.replicate .off ∧ s.regs.ch = Six.replicate .enabled) ∧
    (s.regs.mstate = .running → commOut s.cfg s.regs = commEntry s.cfg s.regs.sector s.regs.dir_cmd)
end

