-- ==== Sys2Proof/Laws/State.lean ====
section
/-! SUPPORT. One lemma per field per update of State and of Regs, true by definition. -/

namespace Sys2Proof.Machine

open Sys2Proof

/-! ## Updates of State -/

@[simp] theorem State.answer_cfg (s : State) (o : Regs × Resp) : (s.answer o).cfg = s.cfg := rfl
@[simp] theorem State.answer_regs (s : State) (o : Regs × Resp) : (s.answer o).regs = o.1 := rfl
@[simp] theorem State.answer_pending (s : State) (o : Regs × Resp) : (s.answer o).pending = s.pending := rfl
@[simp] theorem State.answer_resp (s : State) (o : Regs × Resp) : (s.answer o).resp = some o.2 := rfl
@[simp] theorem State.answer_bop_ret (s : State) (o : Regs × Resp) : (s.answer o).bop_ret = s.bop_ret := rfl

@[simp] theorem State.returned_cfg (s : State) (o : Regs × BopReturn) : (s.returned o).cfg = s.cfg := rfl
@[simp] theorem State.returned_regs (s : State) (o : Regs × BopReturn) : (s.returned o).regs = o.1 := rfl
@[simp] theorem State.returned_pending (s : State) (o : Regs × BopReturn) : (s.returned o).pending = s.pending := rfl
@[simp] theorem State.returned_resp (s : State) (o : Regs × BopReturn) : (s.returned o).resp = s.resp := rfl
@[simp] theorem State.returned_bop_ret (s : State) (o : Regs × BopReturn) : (s.returned o).bop_ret = o.2 := rfl

@[simp] theorem State.taken_cfg (s : State) (l : List PortWord) : (s.taken l).cfg = s.cfg := rfl
@[simp] theorem State.taken_regs (s : State) (l : List PortWord) : (s.taken l).regs = s.regs := rfl
@[simp] theorem State.taken_pending (s : State) (l : List PortWord) : (s.taken l).pending = l := rfl
@[simp] theorem State.taken_resp (s : State) (l : List PortWord) : (s.taken l).resp = s.resp := rfl
@[simp] theorem State.taken_bop_ret (s : State) (l : List PortWord) : (s.taken l).bop_ret = s.bop_ret := rfl

@[simp] theorem State.resetWith_cfg (c : Cfg) : (State.resetWith c).cfg = c := rfl
@[simp] theorem State.resetWith_regs (c : Cfg) : (State.resetWith c).regs = Regs.reset := rfl
@[simp] theorem State.resetWith_pending (c : Cfg) : (State.resetWith c).pending = [] := rfl

/-! ## Writing back the registers a state has -/

/-- A refused event: S unchanged, the response alone is new. -/
theorem State.answer_same (s : State) (c : Resp) : s.answer (s.regs, c) = { s with resp := some c } := rfl

/-- A BDRV operation that wrote nothing: the return value alone is new. -/
theorem State.returned_same (s : State) (b : BopReturn) : s.returned (s.regs, b) = { s with bop_ret := b } := rfl

/-! ## Six -/

@[simp] theorem Six.get_replicate {α : Type} (a : α) (i : Fin 6) : (Six.replicate a).get i = a := by
  fin_cases i <;> rfl

/-- Two containers that agree at every index are equal. -/
theorem Six.ext_get {α : Type} {v w : Six α} (h : ∀ i, v.get i = w.get i) : v = w := by
  obtain ⟨_, _, _, _, _, _⟩ := v
  obtain ⟨_, _, _, _, _, _⟩ := w
  simp only [Six.mk.injEq]
  exact ⟨h 0, h 1, h 2, h 3, h 4, h 5⟩

/-- A container is `replicate a` exactly when every index reads `a`. -/
theorem Six.eq_replicate_iff {α : Type} {v : Six α} {a : α} : v = Six.replicate a ↔ ∀ i, v.get i = a :=
  ⟨fun h i => by rw [h, Six.get_replicate], fun h => Six.ext_get fun i => by rw [h i, Six.get_replicate]⟩

/-- Reading back the entry that was set, and every other one. -/
theorem Six.get_set {α : Type} (v : Six α) (i j : Fin 6) (a : α) :
    (v.set i a).get j = if j = i then a else v.get j := by
  fin_cases i <;> fin_cases j <;> rfl

end Sys2Proof.Machine
end

