-- ==== Sys2Proof/Laws/Ops.lean ====
section
/-! SUPPORT. What each operand form and shared operation can do, said once. -/

namespace Sys2Proof.Machine

open Sys2Proof

/-! ## Appended fields as numbers -/

/-- The number of two appended fields. -/
theorem toNat_append_eq {m n : Nat} (x : BitVec m) (y : BitVec n) :
    BitVec.toNat (w := m + n) (x ++ y) = x.toNat * 2 ^ n + y.toNat := by
  rw [BitVec.toNat_append, ← Nat.shiftLeft_add_eq_or_of_lt y.isLt, Nat.shiftLeft_eq]

/-! ## Codes -/

theorem configCode_le (v : ChannelConfig) : (configCode v).toNat ≤ 4 := by cases v <;> decide

@[simp] theorem configOfCode_configCode (v : ChannelConfig) : configOfCode (configCode v) = some v := by
  cases v <;> rfl

/-- A ChannelConfig code names a member exactly when it is at most 4, and then its code is itself (R88). -/
theorem configOfCode_cases (c : BitVec 3) :
    (4 < c.toNat ∧ configOfCode c = none) ∨ (c.toNat ≤ 4 ∧ ∃ v, configOfCode c = some v ∧ configCode v = c) := by
  revert c; decide

@[simp] theorem diagOfCode_code (p : DiagPhase) : diagOfCode p.code = some p := by cases p <;> rfl

/-- A DiagPhase code is the reserved 3, or names the member whose code it is (R89). -/
theorem diagOfCode_cases (c : BitVec 2) :
    (c = 3 ∧ diagOfCode c = none) ∨ (c ≠ 3 ∧ ∃ p, diagOfCode c = some p ∧ p.code = c) := by
  revert c; decide

theorem DiagPhase.code_injective {p q : DiagPhase} (h : p.code = q.code) : p = q := by
  cases p <;> cases q <;> first | rfl | exact absurd h (by decide)

theorem DiagPhase.code_eq_zero {p : DiagPhase} : p.code = 0 ↔ p = .ok := by cases p <;> decide

/-- Three diagnosis answers: one is the reserved 3, or they are the codes of three phases (R236). -/
theorem diagFieldsOfCodes_cases (r0 r1 r2 : BitVec 2) :
    ((r0 = 3 ∨ r1 = 3 ∨ r2 = 3) ∧ diagFieldsOfCodes r0 r1 r2 = none) ∨
    (¬ (r0 = 3 ∨ r1 = 3 ∨ r2 = 3) ∧ ∃ d, diagFieldsOfCodes r0 r1 r2 = some d ∧
      d.p0.code = r0 ∧ d.p1.code = r1 ∧ d.p2.code = r2) := by
  unfold diagFieldsOfCodes
  rcases diagOfCode_cases r0 with ⟨h0, e0⟩ | ⟨h0, p0, e0, c0⟩ <;>
  rcases diagOfCode_cases r1 with ⟨h1, e1⟩ | ⟨h1, p1, e1, c1⟩ <;>
  rcases diagOfCode_cases r2 with ⟨h2, e2⟩ | ⟨h2, p2, e2, c2⟩ <;>
  simp_all

@[simp] theorem diagFieldsOfCodes_codes (d : DiagFields) :
    diagFieldsOfCodes d.p0.code d.p1.code d.p2.code = some d := by
  simp [diagFieldsOfCodes]

/-- The global flag of answers: set exactly when some code is not Ok (R236). -/
theorem globalFail_iff (d : DiagFields) :
    globalFail d = true ↔ (d.p0.code ≠ 0 ∨ d.p1.code ≠ 0 ∨ d.p2.code ≠ 0) := by
  simp [globalFail, ← DiagPhase.code_eq_zero, or_assoc]

/-- A channel code is 6 or 7, or names the channel of its number (R90). -/
theorem channelOfCode_cases (c : BitVec 3) :
    (5 < c.toNat ∧ channelOfCode c = none) ∨
    (c.toNat ≤ 5 ∧ ∃ k : Channel, channelOfCode c = some k ∧ k.val = c.toNat) := by
  revert c; decide

/-! ## Images -/

/-- R92: the packed image as a number. -/
theorem packImage_toNat (g : Image) : (packImage g).toNat =
    (configCode g.x0).toNat + (configCode g.x1).toNat * 8 + (configCode g.x2).toNat * 64 +
      (configCode g.x3).toNat * 512 + (configCode g.x4).toNat * 4096 + (configCode g.x5).toNat * 32768 := by
  refine (toNat_append_eq _ _).trans ?_
  simp only [toNat_append_eq]
  omega

/-- A field of a packed image as a number. -/
theorem imgField_toNat (img : BitVec 18) (i : Nat) : (imgField img i).toNat = img.toNat / 8 ^ i % 8 := by
  simp [imgField, BitVec.extractLsb'_toNat, Nat.shiftRight_eq_div_pow, pow_mul]

/-- Reading a field of a packed image gives the code of its channel. -/
theorem imgField_packImage (g : Image) (i : Fin 6) : imgField (packImage g) i.val = configCode (g.get i) := by
  have h0 := configCode_le g.x0
  have h1 := configCode_le g.x1
  have h2 := configCode_le g.x2
  have h3 := configCode_le g.x3
  have h4 := configCode_le g.x4
  have h5 := configCode_le g.x5
  apply BitVec.eq_of_toNat_eq
  rw [imgField_toNat, packImage_toNat]
  fin_cases i <;> simp only [Six.get] <;> omega

@[simp] theorem unpackImage_packImage (g : Image) : unpackImage (packImage g) = some g := by
  have h := fun i => imgField_packImage g i
  simp only [unpackImage, show imgField (packImage g) 0 = _ from h 0, show imgField (packImage g) 1 = _ from h 1,
    show imgField (packImage g) 2 = _ from h 2, show imgField (packImage g) 3 = _ from h 3,
    show imgField (packImage g) 4 = _ from h 4, show imgField (packImage g) 5 = _ from h 5, configOfCode_configCode]
  rfl

/-- An 18-bit number is refused for a field above 4, or is the image whose codes its fields are (R231). -/
theorem unpackImage_cases (img : BitVec 18) :
    ((∃ i : Fin 6, 4 < (imgField img i.val).toNat) ∧ unpackImage img = none) ∨
    (∃ g, unpackImage img = some g ∧ ∀ i : Fin 6, configCode (g.get i) = imgField img i.val) := by
  unfold unpackImage
  rcases configOfCode_cases (imgField img 0) with ⟨h, e0⟩ | ⟨_, v0, e0, c0⟩
  · exact .inl ⟨⟨0, h⟩, by simp [e0]⟩
  rcases configOfCode_cases (imgField img 1) with ⟨h, e1⟩ | ⟨_, v1, e1, c1⟩
  · exact .inl ⟨⟨1, h⟩, by simp [e1]⟩
  rcases configOfCode_cases (imgField img 2) with ⟨h, e2⟩ | ⟨_, v2, e2, c2⟩
  · exact .inl ⟨⟨2, h⟩, by simp [e2]⟩
  rcases configOfCode_cases (imgField img 3) with ⟨h, e3⟩ | ⟨_, v3, e3, c3⟩
  · exact .inl ⟨⟨3, h⟩, by simp [e3]⟩
  rcases configOfCode_cases (imgField img 4) with ⟨h, e4⟩ | ⟨_, v4, e4, c4⟩
  · exact .inl ⟨⟨4, h⟩, by simp [e4]⟩
  rcases configOfCode_cases (imgField img 5) with ⟨h, e5⟩ | ⟨_, v5, e5, c5⟩
  · exact .inl ⟨⟨5, h⟩, by simp [e5]⟩
  refine .inr ⟨⟨v0, v1, v2, v3, v4, v5⟩, by simp [e0, e1, e2, e3, e4, e5], fun i => ?_⟩
  fin_cases i <;> assumption

/-! ## BDRV operations -/

/-- `B.SETBRIDGE` of a packed image writes that image. -/
@[simp] theorem setBridge_packImage (g : Image) (r : Regs) : setBridge (packImage g) r = { r with ch := g } := by
  simp [setBridge]

/-- `B.SETBRIDGE` writes nothing, or an image and nothing else (R231). -/
theorem setBridge_cases (img : BitVec 18) (r : Regs) :
    setBridge img r = r ∨ ∃ g, setBridge img r = { r with ch := g } := by
  unfold setBridge
  split
  · exact .inr ⟨_, rfl⟩
  · exact .inl rfl

/-- `B.SETCH` writes nothing, or one field (R232). -/
theorem setChannel_cases (chn cfgv : BitVec 3) (r : Regs) :
    setChannel chn cfgv r = r ∨ ∃ c v, setChannel chn cfgv r = { r with ch := r.ch.set c v } := by
  unfold setChannel
  split
  · exact .inr ⟨_, _, rfl⟩
  · exact .inl rfl

/-- `B.SETINT` writes nothing, or `ien` (R234). -/
theorem setInterrupt_cases (chn : BitVec 3) (which : BitVec 2) (r : Regs) :
    setInterrupt chn which r = r ∨ ∃ e, setInterrupt chn which r = { r with ien := e } := by
  unfold setInterrupt
  split
  · exact .inr ⟨_, rfl⟩
  · exact .inl rfl

/-- `B.OFFDIAG` writes nothing, or the diagnosis latch (R236). -/
theorem offDiagnosis_cases (r0 r1 r2 : BitVec 2) (r : Regs) :
    offDiagnosis r0 r1 r2 r = (r, .invalid) ∨
    ∃ d, offDiagnosis r0 r1 r2 r =
      ({ r with diag := d, glob_fail := globalFail d }, .diagResult d (globalFail d)) := by
  unfold offDiagnosis
  split
  · exact .inr ⟨_, rfl⟩
  · exact .inl rfl

/-! ## Flag words -/

/-- A bit of a flag word after one bit is set. -/
theorem setFlag_getLsbD (x : BitVec 12) (b : Nat) (v : Bool) (j : Nat) (hj : j < 12) :
    (setFlag x b v).getLsbD j = if j = b then v else x.getLsbD j := by
  have hbit : (1#12 <<< b).getLsbD j = decide (j = b) := by
    simp only [BitVec.getLsbD_shiftLeft, BitVec.getLsbD_one, hj, decide_true, Bool.true_and]
    by_cases h : j = b
    · simp [h]
    · simp only [h, decide_false]
      by_cases h2 : j < b
      · simp [h2]
      · simp only [h2, decide_false, Bool.not_false, Bool.true_and]
        simp
        omega
  unfold setFlag
  cases v
  · simp only [Bool.false_eq_true, if_false, BitVec.getLsbD_and, BitVec.getLsbD_not, hbit, hj, decide_true]
    by_cases h : j = b <;> simp [h]
  · simp only [if_true, BitVec.getLsbD_or, hbit]
    by_cases h : j = b <;> simp [h]

/-- A status bit after a write-one-to-clear (R233). -/
theorem clearStatus_getLsbD (sts : BitVec 12) (bits : BitVec 13) (j : Nat) (hj : j < 12) :
    (clearStatus sts bits).getLsbD j = (sts.getLsbD j && !bits.getLsbD j) := by
  simp [clearStatus, hj]

/-! ## Fault entry, return, commit -/

/-- R204: what `enter_fault` writes, and nothing else. -/
@[simp] theorem enterFault_eq (k : FaultKind) (r : Regs) :
    enterFault k r = { r with ch := allOff, mstate := .fault, fault_kind := k } := by
  simp [enterFault]

/-- R134: `commit` writes the table entry as the image, and nothing else. -/
@[simp] theorem commit_eq (cfg : Cfg) (s : Sector) (d : Direction) (r : Regs) :
    commit cfg s d r = { r with ch := commEntry cfg s d } := by
  simp [commit]

/-- Clearing the enables of all six channels clears `ien`, and touches nothing else (R201). -/
theorem initBridge_eq (r : Regs) : initBridge r = { r with ch := allOff, sts := 0, ol := false, ien := 0 } := by
  have hs : clearStatus r.sts 0x1FFF#13 = 0 := by
    apply BitVec.eq_of_getLsbD_eq
    intro j hj
    rw [clearStatus_getLsbD _ _ _ hj]
    have : (0x1FFF#13).getLsbD j = true := by revert hj; revert j; decide
    simp [this]
  have hi : ∀ e : BitVec 12, setEnables (setEnables (setEnables (setEnables (setEnables (setEnables e
      0 0) 1 0) 2 0) 3 0) 4 0) 5 0 = 0 := by
    intro e
    apply BitVec.eq_of_getLsbD_eq
    intro j hj
    simp only [setEnables, setFlag_getLsbD _ _ _ _ hj, flagIndex]
    interval_cases j <;> simp
  simp only [initBridge, setBridge_packImage, clrStatus, List.foldl, setInterrupt,
    show channelOfCode 0#3 = some 0 from rfl, show channelOfCode 1#3 = some 1 from rfl,
    show channelOfCode 2#3 = some 2 from rfl, show channelOfCode 3#3 = some 3 from rfl,
    show channelOfCode 4#3 = some 4 from rfl, show channelOfCode 5#3 = some 5 from rfl]
  rw [hs, hi]
  rfl

/-- R201: INIT gives the reset value of every register. -/
@[simp] theorem initialise_eq (r : Regs) : initialise r = Regs.reset := by
  simp only [initialise, initBridge_eq]
  rfl

/-! ## Clamps and the output stage -/

theorem clamp_le (x lo hi : Int) : clamp x lo hi ≤ hi := by unfold clamp; omega

theorem le_clamp {x lo hi : Int} (h : lo ≤ hi) : lo ≤ clamp x lo hi := by unfold clamp; omega

theorem clamp_of_mem {x lo hi : Int} (h1 : lo ≤ x) (h2 : x ≤ hi) : clamp x lo hi = x := by unfold clamp; omega

/-- A clamp result is a limit or lies between them, so it is in every range both limits are in. -/
theorem clamp_mem {x lo hi a b : Int} (hlo : a ≤ lo) (hhi : a ≤ hi) (hb : hi ≤ b) :
    a ≤ clamp x lo hi ∧ clamp x lo hi ≤ b := by unfold clamp; omega

/-- R150: the result of the output stage is in [0, pwmPeriod] for every configuration. -/
theorem outStage_mem (cfg : Cfg) (d : Int) : 0 ≤ outStage cfg d ∧ outStage cfg d ≤ cfg.pwmPeriod.toNat := by
  unfold outStage clamp; omega

/-- The duty register holds the result of the output stage exactly. -/
theorem duty_toNat (cfg : Cfg) (d : Int) : ((BitVec.ofInt 16 (outStage cfg d)).toNat : Int) = outStage cfg d := by
  have h := outStage_mem cfg d
  have hp := cfg.pwmPeriod.isLt
  simp only [BitVec.toNat_ofInt]
  omega

/-- `write_duty` outside Running writes nothing (R151). -/
theorem writeDuty_of_ne (cfg : Cfg) (d : Int) {r : Regs} (h : r.mstate ≠ .running) : writeDuty cfg d r = r := by
  simp [writeDuty, h]

/-- `write_duty` in Running writes `duty` and nothing else (R151). -/
theorem writeDuty_of_running (cfg : Cfg) (d : Int) {r : Regs} (h : r.mstate = .running) :
    writeDuty cfg d r = { r with duty := BitVec.ofInt 16 (outStage cfg d) } := by
  simp [writeDuty, h]

/-! ## The PI step -/

/-- The two results of the PI step, apart (R175). -/
theorem piStep_fst (cfg : Cfg) (x e : Int) : (piStep cfg x e).1 = clamp (x + cfg.speedKi.toNat * e)
    (cfg.speedIMin.toInt * 2 ^ cfg.PI_FRAC.val) (cfg.speedIMax.toInt * 2 ^ cfg.PI_FRAC.val) := rfl

theorem piStep_snd (cfg : Cfg) (x e : Int) : (piStep cfg x e).2 =
    clamp (floorDivPow2 (cfg.speedKp.toNat * e + (piStep cfg x e).1) cfg.PI_FRAC.val)
      cfg.speedPiMin.toInt cfg.speedPiMax.toInt := rfl

/-- A 16-bit signed field is in its range. -/
theorem s16_range (v : BitVec 16) : -32768 ≤ v.toInt ∧ v.toInt ≤ 32767 := by
  have h1 := BitVec.le_toInt v
  have h2 := BitVec.toInt_lt (x := v)
  norm_num at h1 h2
  omega

/-- R176: a 16-bit limit scaled by 2^PI_FRAC is in the range of a 48-bit register. -/
theorem scaledLimit_range (v : BitVec 16) (q : Fin 32) :
    -70368744177664 ≤ v.toInt * 2 ^ q.val ∧ v.toInt * 2 ^ q.val ≤ 70368744177664 := by
  have h := s16_range v
  have hq : (1 : Int) ≤ 2 ^ q.val ∧ (2 : Int) ^ q.val ≤ 2147483648 := by
    revert q; decide
  constructor <;> nlinarith [h.1, h.2, hq.1, hq.2]

/-- The speed error is in -32767..32768 (R174). -/
theorem speedMeas_range (cfg : Cfg) (r : Regs) : 0 ≤ speedMeas cfg r ∧ speedMeas cfg r ≤ 32767 := by
  unfold speedMeas
  split
  · have := (speedOf cfg r.period).isLt
    omega
  · omega

end Sys2Proof.Machine
end

