-- ==== Sys2Proof/Laws/Decode.lean ====
section
/-! SUPPORT. Fields, encoded words and payload checks as numbers, so that facts about encodings are arithmetic. -/

namespace Sys2Proof

open Sys2Proof.Machine

/-- A field of a word as a number. -/
theorem field_toNat (w : Word) (lo n : Nat) : (field w lo n).toNat = w.toNat / 2 ^ lo % 2 ^ n := by
  simp [field, BitVec.extractLsb'_toNat, Nat.shiftRight_eq_div_pow]

/-- A bit of a word as a number. -/
theorem getLsbD_toNat (w : Word) (j : Nat) : (w.getLsbD j).toNat = w.toNat / 2 ^ j % 2 := by
  rw [BitVec.getLsbD, Nat.testBit, Nat.shiftRight_eq_div_pow]
  rcases Nat.mod_two_eq_zero_or_one (w.toNat / 2 ^ j) with h | h <;> simp [h]

/-- The number of a word from the numbers of its fields (R81, R84). -/
def wordNumber (i : Instr) : Nat :=
  match i with
  | .init => 1 * 2 ^ 28
  | .start => 2 * 2 ^ 28
  | .stop => 3 * 2 ^ 28
  | .setref imm16 => 4 * 2 ^ 28 + imm16.toNat
  | .tick => 5 * 2 ^ 28
  | .hall ts pat => 6 * 2 ^ 28 + ts.toNat * 2 ^ 3 + pat.toNat
  | .offdiag r0 r1 r2 => 7 * 2 ^ 28 + r2.toNat * 2 ^ 4 + r1.toNat * 2 ^ 2 + r0.toNat
  | .diagol o => 8 * 2 ^ 28 + o.toNat
  | .mon chn kind => 9 * 2 ^ 28 + kind.toNat * 2 ^ 3 + chn.toNat
  | .clrsts bits => 10 * 2 ^ 28 + bits.toNat
  | .setint chn which => 11 * 2 ^ 28 + which.toNat * 2 ^ 3 + chn.toNat
  | .bSetbridge img => 1 * 2 ^ 28 + img.toNat
  | .bSetch chn cfgv => 2 * 2 ^ 28 + cfgv.toNat * 2 ^ 3 + chn.toNat
  | .bClrsts bits => 3 * 2 ^ 28 + bits.toNat
  | .bSetint chn which => 4 * 2 ^ 28 + which.toNat * 2 ^ 3 + chn.toNat
  | .bDiagol o => 5 * 2 ^ 28 + o.toNat
  | .bOffdiag r0 r1 r2 => 6 * 2 ^ 28 + r2.toNat * 2 ^ 4 + r1.toNat * 2 ^ 2 + r0.toNat

/-- The number of an encoded word. -/
theorem encodeWord_toNat (i : Instr) : (encodeWord i).toNat = wordNumber i := by
  cases i <;> (refine (toNat_append_eq _ _).trans ?_) <;>
    simp only [wordNumber, toNat_append_eq, BitVec.toNat_ofNat, BitVec.toNat_ofBool] <;> omega

/-- The payload check accepts, refuses a must-be-zero bit, or refuses a value. -/
theorem payload_cases (w : Word) (lo : Nat) (i : Instr) :
    (w.toNat / 2 ^ lo % 2 ^ (28 - lo) ≠ 0 ∧ payload w lo i = .error .mustBeZero) ∨
    (w.toNat / 2 ^ lo % 2 ^ (28 - lo) = 0 ∧ i.wellFormed = false ∧ payload w lo i = .error (.reservedValue i)) ∨
    (w.toNat / 2 ^ lo % 2 ^ (28 - lo) = 0 ∧ i.wellFormed = true ∧ payload w lo i = .ok i) := by
  have hf : field w lo (28 - lo) = 0 ↔ w.toNat / 2 ^ lo % 2 ^ (28 - lo) = 0 := by
    rw [← field_toNat, ← BitVec.toNat_inj]
    simp
  unfold payload checked
  by_cases h : field w lo (28 - lo) = 0
  · cases hw : i.wellFormed <;> simp [h, hf.mp h]
  · exact .inl ⟨fun e => h (hf.mpr e), by rw [if_neg h]⟩

/-- A payload that is accepted: its must-be-zero bits are zero and its values are in range. -/
theorem payload_ok {w : Word} {lo : Nat} {i j : Instr} (h : payload w lo i = .ok j) :
    j = i ∧ i.WellFormed ∧ w.toNat / 2 ^ lo % 2 ^ (28 - lo) = 0 := by
  rcases payload_cases w lo i with ⟨_, e⟩ | ⟨_, _, e⟩ | ⟨hz, hw, e⟩ <;> rw [e] at h
  · cases h
  · cases h
  · cases h
    exact ⟨rfl, hw, hz⟩

/-- A payload whose must-be-zero bits are zero and whose values are in range is accepted. -/
theorem payload_eq_ok {w : Word} {lo : Nat} {i : Instr} (hz : w.toNat / 2 ^ lo % 2 ^ (28 - lo) = 0)
    (hw : i.WellFormed) : payload w lo i = .ok i := by
  rcases payload_cases w lo i with ⟨h, _⟩ | ⟨_, h, _⟩ | ⟨_, _, e⟩
  · exact absurd hz h
  · exact absurd (show i.wellFormed = true from hw) (by simp [h])
  · exact e

/-! ## The value checks as numbers -/

theorem validDiagCode_false_iff (r : BitVec 2) : validDiagCode r = false ↔ r.toNat = 3 := by revert r; decide

theorem validChannelCode_false_iff (c : BitVec 3) : validChannelCode c = false ↔ 6 ≤ c.toNat := by revert c; decide

theorem validConfigCode_false_iff (v : BitVec 3) : validConfigCode v = false ↔ 5 ≤ v.toNat := by revert v; decide

/-- A word that decodes names the instruction whose rule is followed. -/
theorem followed_of_decode {f : PortWord} {i : Instr} (h : decode f = .ok i) : followed f = some i := by
  simp [followed, h]

end Sys2Proof
end

