-- ==== Sys2Proof/Laws/Events.lean ====
section
/-! SUPPORT. What each event and each step can do, said once: the cases of every meaning and the inversion of `exec` and
`step`. -/

namespace Sys2Proof.Machine

open Sys2Proof

/-! ## `exec` -/

/-- The register part of a meaning: S after an instruction. -/
def regsAfter (i : Instr) (cfg : Cfg) (r : Regs) : Regs :=
  match i with
  | .init => (initEvent r).1
  | .start => (startEvent cfg r).1
  | .stop => (stopEvent r).1
  | .setref v => (setrefEvent v r).1
  | .tick => (tickEvent cfg r).1
  | .hall ts pat => (hallEvent cfg ts pat r).1
  | .offdiag r0 r1 r2 => (offdiagEvent r0 r1 r2 r).1
  | .diagol o => (diagolEvent cfg o r).1
  | .mon chn kind => (monEvent chn kind r).1
  | .clrsts bits => (clrstsEvent bits r).1
  | .setint chn which => (setintEvent chn which r).1
  | .bSetbridge img => setBridge img r
  | .bSetch chn cfgv => setChannel chn cfgv r
  | .bClrsts bits => clrStatus bits r
  | .bSetint chn which => setInterrupt chn which r
  | .bDiagol o => (diagOpenLoad o r).1
  | .bOffdiag r0 r1 r2 => (offDiagnosis r0 r1 r2 r).1

/-- Every meaning answers a next state, with the registers of `regsAfter`, the configuration and the pending words as
they were. -/
theorem exec_next (i : Instr) (s : State) :
    ∃ t, exec i s = .next t ∧ t.regs = regsAfter i s.cfg s.regs ∧ t.cfg = s.cfg ∧ t.pending = s.pending := by
  cases i <;> exact ⟨_, rfl, rfl, rfl, rfl⟩

/-- What a next state of `exec` is: the inversion of `exec_next`. -/
theorem exec_inv {i : Instr} {s t : State} (h : exec i s = .next t) :
    t.regs = regsAfter i s.cfg s.regs ∧ t.cfg = s.cfg ∧ t.pending = s.pending := by
  obtain ⟨t', h', hr, hc, hp⟩ := exec_next i s
  rw [h'] at h
  cases h
  exact ⟨hr, hc, hp⟩

/-- An event leaves the BOP port's return value alone; a BDRV operation leaves the response alone. -/
theorem exec_outputs {i : Instr} {s t : State} (h : exec i s = .next t) :
    (i.port = .evt → t.bop_ret = s.bop_ret) ∧ (i.port = .bop → t.resp = s.resp) := by
  cases i <;> cases h <;> simp [Instr.port]

/-! ## `step` -/

/-- The step with no pending word. -/
theorem step_idle {s : State} (h : s.pending = []) : step s = .next s := by simp [step, h]

/-- The step at a pending word. -/
theorem step_cons {s : State} {f : PortWord} {rest : List PortWord} (h : s.pending = f :: rest) :
    step s = takeWord f (s.taken rest) := by simp [step, h]

/-- Everything a step can be: idle, an instruction's meaning, or the refusal of a word that names none. -/
theorem step_cases (s : State) :
    (s.pending = [] ∧ step s = .next s) ∨
    (∃ f rest, s.pending = f :: rest ∧
      ((∃ i, followed f = some i ∧ step s = exec i (s.taken rest)) ∨
        (followed f = none ∧ step s = .next (refuseWord f.port (s.taken rest))))) := by
  rcases hp : s.pending with _ | ⟨f, rest⟩
  · exact .inl ⟨rfl, step_idle hp⟩
  · refine .inr ⟨f, rest, rfl, ?_⟩
    rw [step_cons hp, takeWord]
    cases followed f with
    | some i => exact .inl ⟨i, rfl, rfl⟩
    | none => exact .inr ⟨rfl, rfl⟩

/-- A refused word changes no register, no configuration and no pending word. -/
theorem refuseWord_inv (p : Port) (s : State) :
    (refuseWord p s).regs = s.regs ∧ (refuseWord p s).cfg = s.cfg ∧ (refuseWord p s).pending = s.pending := by
  cases p <;> exact ⟨rfl, rfl, rfl⟩

/-! ## Cases of the events with more than one outcome -/

/-- START: refused, faulted by a latch, or primed and enabled (R202). -/
theorem startEvent_cases (cfg : Cfg) (r : Regs) :
    (r.mstate ≠ .off ∧ startEvent cfg r = (r, .errState)) ∨
    (r.mstate = .off ∧ r.glob_fail = true ∧
      startEvent cfg r = (enterFault .bridgeDiagnosisFault (primed r), .ok)) ∨
    (r.mstate = .off ∧ r.glob_fail = false ∧ r.ol = true ∧ cfg.openLoadFatal = true ∧
      startEvent cfg r = (enterFault .openLoad (primed r), .ok)) ∨
    (r.mstate = .off ∧ r.glob_fail = false ∧ (r.ol = false ∨ cfg.openLoadFatal = false) ∧
      startEvent cfg r = ({ primed r with ch := allEn }, .ok)) := by
  unfold startEvent
  by_cases h1 : r.mstate = .off
  · cases h2 : r.glob_fail <;> cases h3 : r.ol <;> cases h4 : cfg.openLoadFatal <;> simp [h1]
  · simp [h1]

/-- STOP: taken or refused (R203). -/
theorem stopEvent_cases (r : Regs) :
    ((r.mstate = .starting ∨ r.mstate = .running) ∧ stopEvent r = ({ r with ch := allOff, mstate := .off }, .ok)) ∨
    ((r.mstate = .off ∨ r.mstate = .fault) ∧ stopEvent r = (r, .errState)) := by
  unfold stopEvent
  cases h : r.mstate <;> simp

/-- TICK: no effect, stall fault, count and direction, or count, direction and PI step (R177). -/
theorem tickEvent_cases (cfg : Cfg) (r : Regs) :
    ((r.mstate = .off ∨ r.mstate = .fault) ∧ tickEvent cfg r = (r, .ok)) ∨
    ((r.mstate = .starting ∨ r.mstate = .running) ∧ cfg.STALL_TICKS.toNat ≤ r.stall_cnt.toNat + 1 ∧
      tickEvent cfg r = ({ r with
        stall_cnt := r.stall_cnt + 1, ch := allOff, mstate := .fault, fault_kind := .stallTimeout }, .ok)) ∨
    (r.mstate = .starting ∧ r.stall_cnt.toNat + 1 < cfg.STALL_TICKS.toNat ∧
      tickEvent cfg r = ({ r with stall_cnt := r.stall_cnt + 1, dir_cmd := dirOfRef r.ref_speed }, .ok)) ∨
    (r.mstate = .running ∧ r.stall_cnt.toNat + 1 < cfg.STALL_TICKS.toNat ∧
      tickEvent cfg r = ({ r with
        stall_cnt := r.stall_cnt + 1, dir_cmd := dirOfRef r.ref_speed
        integ := BitVec.ofInt 48 (piStep cfg r.integ.toInt (speedError cfg r)).1
        pi_out := BitVec.ofInt 16 (piStep cfg r.integ.toInt (speedError cfg r)).2
        duty := BitVec.ofInt 16 (outStage cfg (piStep cfg r.integ.toInt (speedError cfg r)).2) }, .ok)) := by
  unfold tickEvent
  by_cases hl : cfg.STALL_TICKS.toNat ≤ r.stall_cnt.toNat + 1
  · cases h : r.mstate <;> simp [hl]
  · have hl' : r.stall_cnt.toNat + 1 < cfg.STALL_TICKS.toNat := by omega
    cases h : r.mstate <;>
      simp_all [tickBelowLimit, runPi, writeDuty, speedError, speedMeas]

/-- The class of a sample by its sector (R112). -/
theorem classify_cases (s : Sector) (r : Regs) :
    (r.sector_valid = false ∧ classify s r = .first) ∨
    (r.sector_valid = true ∧ s = r.sector ∧ classify s r = .repeated) ∨
    (r.sector_valid = true ∧ s.val = (r.sector.val + 1) % 6 ∧ classify s r = .stepFwd) ∨
    (r.sector_valid = true ∧ s.val = (r.sector.val + 5) % 6 ∧ classify s r = .stepRev) ∨
    (r.sector_valid = true ∧ s ≠ r.sector ∧ s.val ≠ (r.sector.val + 1) % 6 ∧ s.val ≠ (r.sector.val + 5) % 6 ∧
      classify s r = .glitch) := by
  have hs := s.isLt
  have hr := r.sector.isLt
  unfold classify
  cases hv : r.sector_valid
  · simp
  · by_cases h0 : s = r.sector
    · simp [h0]
    by_cases h1 : s.val = (r.sector.val + 1) % 6
    · simp [h0, h1]
    by_cases h2 : s.val = (r.sector.val + 5) % 6
    · have h1' : ¬ (r.sector.val + 5) % 6 = (r.sector.val + 1) % 6 := by omega
      simp [h0, h2, h1']
    · simp [h0, h1, h2]

/-- `hall_decode`: a sensor fault for the patterns 0 and 7, else the sector of the pattern (R111). -/
theorem hallDecode_cases (m : HallMap) (p : BitVec 3) :
    ((p = 0 ∨ p = 7) ∧ hallDecode m p = .sensorFault) ∨
    (¬ (p = 0 ∨ p = 7) ∧ ∃ k : Fin 6, p.toNat = k.val + 1 ∧ hallDecode m p = .sector (m.get k)) := by
  have hp : p = 0 ∨ p = 1 ∨ p = 2 ∨ p = 3 ∨ p = 4 ∨ p = 5 ∨ p = 6 ∨ p = 7 := by revert p; decide
  rcases hp with rfl | rfl | rfl | rfl | rfl | rfl | rfl | rfl
  · exact .inl ⟨by decide, rfl⟩
  · exact .inr ⟨by decide, 0, rfl, rfl⟩
  · exact .inr ⟨by decide, 1, rfl, rfl⟩
  · exact .inr ⟨by decide, 2, rfl, rfl⟩
  · exact .inr ⟨by decide, 3, rfl, rfl⟩
  · exact .inr ⟨by decide, 4, rfl, rfl⟩
  · exact .inr ⟨by decide, 5, rfl, rfl⟩
  · exact .inl ⟨by decide, rfl⟩

/-- A valid sample in Starting enters Running with the initial duty and the entry of the decoder's sector (R113). -/
theorem hallSample_starting (cfg : Cfg) (s : Sector) (ts : BitVec 24) {r : Regs} (h : r.mstate = .starting) :
    hallSample cfg s ts r = { hallDecoderWrites (classify s r) s ts r with
      mstate := .running, duty := BitVec.ofInt 16 (outStage cfg cfg.initDuty.toNat)
      ch := commEntry cfg (hallDecoderWrites (classify s r) s ts r).sector r.dir_cmd } := by
  have hd : (hallDecoderWrites (classify s r) s ts r).dir_cmd = r.dir_cmd := by
    cases classify s r <;> rfl
  simp [hallSample, h, enterRunning, writeDuty, hd]

/-- A valid sample in Running commits the entry of the new sector if it is accepted, and writes nothing if not (R113). -/
theorem hallSample_running (cfg : Cfg) (s : Sector) (ts : BitVec 24) {r : Regs} (h : r.mstate = .running) :
    hallSample cfg s ts r =
      if (classify s r).accepted then { hallDecoderWrites (classify s r) s ts r with
        ch := commEntry cfg (hallDecoderWrites (classify s r) s ts r).sector r.dir_cmd }
      else r := by
  have hd : (hallDecoderWrites (classify s r) s ts r).dir_cmd = r.dir_cmd := by
    cases classify s r <;> rfl
  cases hc : classify s r <;>
    simp [hallSample, h, hc, SampleClass.accepted, hallDecoderWrites, hallStep]

/-- HALL: refused, sensor fault, or a valid sample (R113). -/
theorem hallEvent_cases (cfg : Cfg) (ts : BitVec 24) (pat : BitVec 3) (r : Regs) :
    ((r.mstate = .off ∨ r.mstate = .fault) ∧ hallEvent cfg ts pat r = (r, .errState)) ∨
    ((r.mstate = .starting ∨ r.mstate = .running) ∧ (pat = 0 ∨ pat = 7) ∧
      hallEvent cfg ts pat r = ({ r with ch := allOff, mstate := .fault, fault_kind := .sensorFault }, .ok)) ∨
    ((r.mstate = .starting ∨ r.mstate = .running) ∧ ¬ (pat = 0 ∨ pat = 7) ∧ ∃ k : Fin 6, pat.toNat = k.val + 1 ∧
      hallEvent cfg ts pat r = (hallSample cfg (cfg.HALL_MAP.get k) ts r, .ok)) := by
  unfold hallEvent
  by_cases hm : r.mstate = .off ∨ r.mstate = .fault
  · exact .inl ⟨hm, by rw [if_pos hm]⟩
  have hm' : r.mstate = .starting ∨ r.mstate = .running := by
    cases h : r.mstate <;> simp_all
  rw [if_neg hm]
  rcases hallDecode_cases cfg.HALL_MAP pat with ⟨hp, hd⟩ | ⟨hp, k, hk, hd⟩
  · exact .inr (.inl ⟨hm', hp, by rw [hd]; simp only [enterFault_eq]⟩)
  · exact .inr (.inr ⟨hm', hp, k, hk, by rw [hd]⟩)

/-- OFFDIAG: reserved answer, latched, latched with a fault, not trusted, or refused (R237). -/
theorem offdiagEvent_cases (r0 r1 r2 : BitVec 2) (r : Regs) :
    ((r0 = 3 ∨ r1 = 3 ∨ r2 = 3) ∧ offdiagEvent r0 r1 r2 r = (r, .errReserved)) ∨
    (¬ (r0 = 3 ∨ r1 = 3 ∨ r2 = 3) ∧ ∃ d : DiagFields, d.p0.code = r0 ∧ d.p1.code = r1 ∧ d.p2.code = r2 ∧
      ((r.mstate = .off ∧ offdiagEvent r0 r1 r2 r = ({ r with diag := d, glob_fail := globalFail d }, .ok)) ∨
       (r.mstate = .starting ∧ globalFail d = false ∧
         offdiagEvent r0 r1 r2 r = ({ r with diag := d, glob_fail := false }, .ok)) ∨
       (r.mstate = .running ∧ globalFail d = false ∧ offdiagEvent r0 r1 r2 r = (r, .errDiagPwm)) ∨
       ((r.mstate = .starting ∨ r.mstate = .running) ∧ globalFail d = true ∧
         offdiagEvent r0 r1 r2 r = ({ r with
           diag := d, glob_fail := true, ch := allOff, mstate := .fault
           fault_kind := .bridgeDiagnosisFault }, .ok)) ∨
       (r.mstate = .fault ∧ offdiagEvent r0 r1 r2 r = (r, .errState)))) := by
  unfold offdiagEvent offDiagnosis
  rcases diagFieldsOfCodes_cases r0 r1 r2 with ⟨h, e⟩ | ⟨h, d, e, h0, h1, h2⟩
  · exact .inl ⟨h, by simp [e]⟩
  · refine .inr ⟨h, d, h0, h1, h2, ?_⟩
    cases hm : r.mstate <;> cases hg : globalFail d <;> simp [e, hg]

/-- DIAGOL: latched, latched with a fault, not trusted, or refused (R238). -/
theorem diagolEvent_cases (cfg : Cfg) (o : Bool) (r : Regs) :
    (r.mstate = .off ∧ diagolEvent cfg o r = ({ r with ol := o }, .ok)) ∨
    (r.mstate = .starting ∧ (o = false ∨ cfg.openLoadFatal = false) ∧
      diagolEvent cfg o r = ({ r with ol := o }, .ok)) ∨
    (r.mstate = .starting ∧ o = true ∧ cfg.openLoadFatal = true ∧ diagolEvent cfg o r = ({ r with
      ol := true, ch := allOff, mstate := .fault, fault_kind := .openLoad }, .ok)) ∨
    (r.mstate = .running ∧ diagolEvent cfg o r = (r, .errDiagPwm)) ∨
    (r.mstate = .fault ∧ diagolEvent cfg o r = (r, .errState)) := by
  unfold diagolEvent diagOpenLoad
  cases hm : r.mstate <;> cases o <;> cases hf : cfg.openLoadFatal <;> simp

/-- MON: reserved channel, status with a fault, or status alone (R239). -/
theorem monEvent_cases (chn : BitVec 3) (kind : Bool) (r : Regs) :
    (5 < chn.toNat ∧ monEvent chn kind r = (r, .errReserved)) ∨
    (chn.toNat ≤ 5 ∧ r.ien.getLsbD (2 * chn.toNat + kind.toNat) = true ∧
      (r.mstate = .starting ∨ r.mstate = .running) ∧ monEvent chn kind r = ({ r with
        sts := setFlag r.sts (2 * chn.toNat + kind.toNat) true, ch := allOff, mstate := .fault
        fault_kind := .bridgeDiagnosisFault }, .ok)) ∨
    (chn.toNat ≤ 5 ∧ (r.ien.getLsbD (2 * chn.toNat + kind.toNat) = false ∨ r.mstate = .off ∨ r.mstate = .fault) ∧
      monEvent chn kind r = ({ r with sts := setFlag r.sts (2 * chn.toNat + kind.toNat) true }, .ok)) := by
  unfold monEvent
  rcases channelOfCode_cases chn with ⟨h, e⟩ | ⟨h, k, e, hk⟩
  · exact .inl ⟨h, by simp [e]⟩
  · rw [e]
    simp only [flagIndex, hk]
    cases hm : r.mstate <;> cases hi : r.ien.getLsbD (2 * chn.toNat + kind.toNat) <;> simp [h]

/-- SETINT: reserved channel, or the two enables replaced (R241). -/
theorem setintEvent_cases (chn : BitVec 3) (which : BitVec 2) (r : Regs) :
    (5 < chn.toNat ∧ setintEvent chn which r = (r, .errReserved) ∧ setInterrupt chn which r = r) ∨
    (chn.toNat ≤ 5 ∧ ∃ k : Channel, k.val = chn.toNat ∧
      setintEvent chn which r = ({ r with ien := setEnables r.ien k which }, .ok) ∧
      setInterrupt chn which r = { r with ien := setEnables r.ien k which }) := by
  unfold setintEvent setInterrupt
  rcases channelOfCode_cases chn with ⟨h, e⟩ | ⟨h, k, e, hk⟩
  · exact .inl ⟨h, by simp [e], by simp [e]⟩
  · exact .inr ⟨h, k, hk, by simp [e], by simp [e]⟩

end Sys2Proof.Machine
end

