-- ==== Sys2Proof/Laws/PerInstr.lean ====
section
/-! SUPPORT. Per instruction: the word of every instruction is a word of its row of the opcode table. -/

namespace Sys2Proof.Laws.TableRow

open Sys2Proof

/-- The opcode of an instruction's row and the number of low payload bits its fields take (R81, R84). -/
def row (i : Instr) : Nat × Nat :=
  match i with
  | .init => (1, 0)
  | .start => (2, 0)
  | .stop => (3, 0)
  | .setref _ => (4, 16)
  | .tick => (5, 0)
  | .hall _ _ => (6, 27)
  | .offdiag _ _ _ => (7, 6)
  | .diagol _ => (8, 1)
  | .mon _ _ => (9, 4)
  | .clrsts _ => (10, 13)
  | .setint _ _ => (11, 5)
  | .bSetbridge _ => (1, 18)
  | .bSetch _ _ => (2, 6)
  | .bClrsts _ => (3, 13)
  | .bSetint _ _ => (4, 5)
  | .bDiagol _ => (5, 1)
  | .bOffdiag _ _ _ => (6, 6)

/-- The bits above the fields are the row's opcode and zeros: the row's match under its mask. -/
def Statement (i : Instr) : Prop := (encodeWord i).toNat / 2 ^ (row i).2 = (row i).1 * 2 ^ (28 - (row i).2)

theorem init : Statement .init := by simp [Statement, row, encodeWord_toNat, wordNumber]

theorem start : Statement .start := by simp [Statement, row, encodeWord_toNat, wordNumber]

theorem stop : Statement .stop := by simp [Statement, row, encodeWord_toNat, wordNumber]

theorem setref (imm16 : BitVec 16) : Statement (.setref imm16) := by
  have := imm16.isLt
  simp only [Statement, row, encodeWord_toNat, wordNumber]
  omega

theorem tick : Statement .tick := by simp [Statement, row, encodeWord_toNat, wordNumber]

theorem hall (ts : BitVec 24) (pat : BitVec 3) : Statement (.hall ts pat) := by
  have := ts.isLt
  have := pat.isLt
  simp only [Statement, row, encodeWord_toNat, wordNumber]
  omega

theorem offdiag (r0 r1 r2 : BitVec 2) : Statement (.offdiag r0 r1 r2) := by
  have := r0.isLt
  have := r1.isLt
  have := r2.isLt
  simp only [Statement, row, encodeWord_toNat, wordNumber]
  omega

theorem diagol (o : Bool) : Statement (.diagol o) := by
  have := o.toNat_lt
  simp only [Statement, row, encodeWord_toNat, wordNumber]
  omega

theorem mon (chn : BitVec 3) (kind : Bool) : Statement (.mon chn kind) := by
  have := chn.isLt
  have := kind.toNat_lt
  simp only [Statement, row, encodeWord_toNat, wordNumber]
  omega

theorem clrsts (bits : BitVec 13) : Statement (.clrsts bits) := by
  have := bits.isLt
  simp only [Statement, row, encodeWord_toNat, wordNumber]
  omega

theorem setint (chn : BitVec 3) (which : BitVec 2) : Statement (.setint chn which) := by
  have := chn.isLt
  have := which.isLt
  simp only [Statement, row, encodeWord_toNat, wordNumber]
  omega

theorem bSetbridge (img : BitVec 18) : Statement (.bSetbridge img) := by
  have := img.isLt
  simp only [Statement, row, encodeWord_toNat, wordNumber]
  omega

theorem bSetch (chn cfgv : BitVec 3) : Statement (.bSetch chn cfgv) := by
  have := chn.isLt
  have := cfgv.isLt
  simp only [Statement, row, encodeWord_toNat, wordNumber]
  omega

theorem bClrsts (bits : BitVec 13) : Statement (.bClrsts bits) := by
  have := bits.isLt
  simp only [Statement, row, encodeWord_toNat, wordNumber]
  omega

theorem bSetint (chn : BitVec 3) (which : BitVec 2) : Statement (.bSetint chn which) := by
  have := chn.isLt
  have := which.isLt
  simp only [Statement, row, encodeWord_toNat, wordNumber]
  omega

theorem bDiagol (o : Bool) : Statement (.bDiagol o) := by
  have := o.toNat_lt
  simp only [Statement, row, encodeWord_toNat, wordNumber]
  omega

theorem bOffdiag (r0 r1 r2 : BitVec 2) : Statement (.bOffdiag r0 r1 r2) := by
  have := r0.isLt
  have := r1.isLt
  have := r2.isLt
  simp only [Statement, row, encodeWord_toNat, wordNumber]
  omega

end Sys2Proof.Laws.TableRow
end

