-- ==== Sys2Proof/Machine/Listing.lean ====
section
/-! DEFINITION. Event listings: the line of an event (R93), the pseudo-events and their expansions (R94), and a listing
presented at the event port. -/

namespace Sys2Proof.Machine

open Sys2Proof

/-- The name of a channel (R90). -/
def channelName (c : Channel) : String :=
  match c with
  | 0 => "LS1"
  | 1 => "HS1"
  | 2 => "LS2"
  | 3 => "HS2"
  | 4 => "LS3"
  | 5 => "HS3"

/-- The name of a diagnosis answer in a listing (R93). -/
def diagName (p : DiagPhase) : String :=
  match p with
  | .ok => "ok"
  | .shortToGnd => "gnd"
  | .shortToVBat => "vbat"

/-- The name of a monitor kind in a listing (R82, R93). -/
def kindName (kind : Bool) : String := if kind then "oc" else "ds"

/-- The name of an enable pair in a listing (R82, R93). -/
def enableName (which : BitVec 2) : String :=
  match which.toNat with
  | 0 => "none"
  | 1 => "ds"
  | 2 => "oc"
  | _ => "both"

/-- One binary digit. -/
def binDigit (b : Bool) : String := if b then "1" else "0"

/-- A Hall pattern as `0bCBA` (R93, R110). -/
def patternText (p : BitVec 3) : String :=
  "0b" ++ binDigit (p.getLsbD 2) ++ binDigit (p.getLsbD 1) ++ binDigit (p.getLsbD 0)

/-- A number in hexadecimal, as the listings write a mask. -/
def hexText (n : Nat) : String := "0x" ++ String.ofList ((Nat.toDigits 16 n).map Char.toUpper)

/-- A signed number in decimal. -/
def decText (v : Int) : String :=
  if v < 0 then "-" ++ Nat.repr v.natAbs else Nat.repr v.natAbs

/-- The line of an event (R93): none for a reserved operand value, and none for a BDRV operation, which is no event. -/
def eventLine (i : Instr) : Option String :=
  match i with
  | .init => some "INIT"
  | .start => some "START"
  | .stop => some "STOP"
  | .setref imm16 => some ("SETREF " ++ decText imm16.toInt)
  | .tick => some "TICK"
  | .hall ts pat => some ("HALL " ++ patternText pat ++ " " ++ Nat.repr ts.toNat)
  | .offdiag r0 r1 r2 =>
    (diagFieldsOfCodes r0 r1 r2).map
      (fun d => "OFFDIAG " ++ diagName d.p0 ++ " " ++ diagName d.p1 ++ " " ++ diagName d.p2)
  | .diagol o => some ("DIAGOL " ++ binDigit o)
  | .mon chn kind => (channelOfCode chn).map (fun c => "MON " ++ channelName c ++ " " ++ kindName kind)
  | .clrsts bits => some ("CLRSTS " ++ hexText bits.toNat)
  | .setint chn which => (channelOfCode chn).map (fun c => "SETINT " ++ channelName c ++ " " ++ enableName which)
  | .bSetbridge _ => none
  | .bSetch _ _ => none
  | .bClrsts _ => none
  | .bSetint _ _ => none
  | .bDiagol _ => none
  | .bOffdiag _ _ _ => none

/-! ## Pseudo-events (R94) -/

/-- `Emo_Init()` -/
def emoInit : List Instr := [.init]

/-- `Emo_StartMotor()` -/
def emoStartMotor : List Instr := [.start]

/-- `Emo_StopMotor()` -/
def emoStopMotor : List Instr := [.stop]

/-- `Emo_SetRefSpeed(v)` -/
def emoSetRefSpeed (v : BitVec 16) : List Instr := [.setref v]

/-- `Emo_CtrlSpeed()`, also `onTick()` -/
def emoCtrlSpeed : List Instr := [.tick]

/-- `onHallEdge(pattern)`, with the timestamp the edge source attaches. -/
def onHallEdge (pat : BitVec 3) (ts : BitVec 24) : List Instr := [.hall ts pat]

/-- `REINIT`: "`INIT` followed by `START`". -/
def reinit : List Instr := [.init, .start]

/-- `SETINTALL k`: SETINT of the six channels in order. -/
def setintAll (which : BitVec 2) : List Instr := [0#3, 1#3, 2#3, 3#3, 4#3, 5#3].map (fun c => .setint c which)

/-- `inject SensorFault`: HALL with the pattern `0b111`, or else `0b000`. -/
def injectSensorFault (allSet : Bool) (ts : BitVec 24) : List Instr := [.hall ts (if allSet then 7 else 0)]

/-- `inject BridgeDiagnosisFault`: an OFFDIAG of the answers of the three phases, "with some `r_i != ok`". -/
def injectBridgeDiagnosisFault (d : DiagFields) : List Instr := [.offdiag d.p0.code d.p1.code d.p2.code]

/-- `inject StallTimeout`: "`STALL_TICKS` consecutive `TICK`s". -/
def injectStallTimeout (cfg : Cfg) : List Instr := List.replicate cfg.STALL_TICKS.toNat .tick

/-! ## Presenting -/

/-- A listing presented at the ports behind what is pending: "A listing is a sequence of events in the order the block
takes them" (R93), "an event stays pending until taken" (R67). -/
def State.present (s : State) (listing : List Instr) : State :=
  { s with pending := s.pending ++ listing.map encode }

end Sys2Proof.Machine
end

