-- ==== Sys2Proof/Tests/Slice0.lean ====
section
/-! SUPPORT. Tests on fixed values, each from the spec (95_test_vectors.md or a rule's worked example), and for every
statement with hypotheses a witness that meets them. -/

namespace Sys2Proof.Tests

open Sys2Proof Sys2Proof.Machine Sys2Proof.Safety

/-! ## Small states -/

/-- The reset machine with the registers `r`, under CFG_T. -/
def on (r : Regs) : State := { State.reset with regs := r }

/-- In Starting, right after START. -/
def startingRegs : Regs := { Regs.reset with mstate := .starting, ch := allEn }

/-- In Running, right after the first sample, pattern 0b001 at time 0 (P1 row 4). -/
def runningRegs : Regs :=
  { Regs.reset with
    mstate := .running, ref_speed := 1000, sector_valid := true, duty := 10, ch := ⟨.off, .pwm, .enabled, .off, .off, .off⟩ }

/-- In Fault after a stall. -/
def faultRegs : Regs := { Regs.reset with mstate := .fault, fault_kind := .stallTimeout, stall_cnt := 100, duty := 40 }

/-- The next state of an outcome. -/
def nextOf (o : Host.Outcome State Fault Refusal) : Option State :=
  match o with
  | .next t => some t
  | .fault _ => none
  | .refused _ => none

/-- The registers after the step that takes the event word `w` in `r`, with the response. -/
def evt (r : Regs) (w : Word) : Option (Regs × Option Resp) :=
  (nextOf (step { on r with pending := [⟨.evt, w⟩] })).map (fun t => (t.regs, t.resp))

/-- The registers after the step that takes the BOP word `w` in `r`, with the return value. -/
def bop (r : Regs) (w : Word) : Option (Regs × BopReturn) :=
  (nextOf (step { on r with pending := [⟨.bop, w⟩] })).map (fun t => (t.regs, t.bop_ret))

/-! ## WellFormed refuses an ill-formed term of every check (R83 (c), (d); R84) -/

theorem smoke_offdiag_r0 : Instr.wellFormed (.offdiag 3 0 0) = false := by decide
theorem smoke_offdiag_r1 : Instr.wellFormed (.offdiag 0 3 0) = false := by decide
theorem smoke_offdiag_r2 : Instr.wellFormed (.offdiag 0 0 3) = false := by decide
theorem smoke_mon : Instr.wellFormed (.mon 6 false) = false := by decide
theorem smoke_setint : Instr.wellFormed (.setint 7 0) = false := by decide
theorem smoke_bSetbridge_low : Instr.wellFormed (.bSetbridge 0x00005) = false := by decide
theorem smoke_bSetbridge_high : Instr.wellFormed (.bSetbridge 0x28000) = false := by decide
theorem smoke_bSetch_chn : Instr.wellFormed (.bSetch 6 2) = false := by decide
theorem smoke_bSetch_cfgv : Instr.wellFormed (.bSetch 1 5) = false := by decide
theorem smoke_bSetint : Instr.wellFormed (.bSetint 6 3) = false := by decide
theorem smoke_bOffdiag : Instr.wellFormed (.bOffdiag 0 0 3) = false := by decide

/-! ## Words decode (V-ENC of L2.1; BOP words from the table of R84) -/

theorem decode_init : decode ⟨.evt, 0x10000000⟩ = .ok .init := by decide
theorem decode_start : decode ⟨.evt, 0x20000000⟩ = .ok .start := by decide
theorem decode_stop : decode ⟨.evt, 0x30000000⟩ = .ok .stop := by decide
theorem decode_setref : decode ⟨.evt, 0x40008000⟩ = .ok (.setref (-32768)) := by decide
theorem decode_tick : decode ⟨.evt, 0x50000000⟩ = .ok .tick := by decide
theorem decode_hall : decode ⟨.evt, 0x67FFFFFD⟩ = .ok (.hall 16777215 0b101) := by decide
theorem decode_offdiag : decode ⟨.evt, 0x70000009⟩ = .ok (.offdiag 1 2 0) := by decide
theorem decode_diagol : decode ⟨.evt, 0x80000001⟩ = .ok (.diagol true) := by decide
theorem decode_mon : decode ⟨.evt, 0x9000000D⟩ = .ok (.mon 5 true) := by decide
theorem decode_clrsts : decode ⟨.evt, 0xA0001000⟩ = .ok (.clrsts 0x1000) := by decide
theorem decode_setint : decode ⟨.evt, 0xB000001D⟩ = .ok (.setint 5 3) := by decide
theorem decode_bSetbridge : decode ⟨.bop, 0x10000050⟩ = .ok (.bSetbridge 0x00050) := by decide
theorem decode_bSetch : decode ⟨.bop, 0x20000011⟩ = .ok (.bSetch 1 2) := by decide
theorem decode_bClrsts : decode ⟨.bop, 0x30001001⟩ = .ok (.bClrsts 0x1001) := by decide
theorem decode_bSetint : decode ⟨.bop, 0x4000000B⟩ = .ok (.bSetint 3 1) := by decide
theorem decode_bDiagol : decode ⟨.bop, 0x50000001⟩ = .ok (.bDiagol true) := by decide
theorem decode_bOffdiag : decode ⟨.bop, 0x60000024⟩ = .ok (.bOffdiag 0 1 2) := by decide

/-- V-RSV-1 to V-RSV-18. -/
theorem decode_reserved :
    ([0x00000000, 0xC0000000, 0xFFFFFFFF, 0x10000001, 0x28000000, 0x40010000, 0x50000100, 0x68000001, 0x70000040,
      0x70000003, 0x70000030, 0x80000002, 0x90000010, 0x90000006, 0x9000000F, 0xA0002000, 0xB0000020,
      0xB000001F] : List Word).all (fun w => evt runningRegs w == some (runningRegs, some .errReserved)) = true := by
  decide

/-- R84: reserved BOP words, every reason, leave the registers unchanged. -/
theorem decode_reservedBop :
    ([0x00000000, 0x70000000, 0xF0000000, 0x10040000, 0x10000005, 0x20000006, 0x20000029, 0x30002000, 0x40000006,
      0x40000020, 0x50000002, 0x60000003, 0x60000040] : List Word).all
        (fun w => (bop runningRegs w).map Prod.fst == some runningRegs) = true := by
  decide

theorem decodeTableWord_evt : decodeTableWord 32 0x90000001 = some (.mon 1 false) := by decide
theorem decodeTableWord_bop : decodeTableWord 32 0x20000011 = some (.bSetch 1 2) := by decide
theorem bytes_V_ENC_11 : wordBytes 0x60004E23 = [0x23, 0x4E, 0x00, 0x60] := by decide

/-! ## One step per instruction -/

/-- R201 worked example. -/
theorem test_init : evt faultRegs 0x10000000 = some (Regs.reset, some .ok) := by decide

/-- V-SUP-1 rows 4, 5: START latches the direction of a negative reference. -/
theorem test_start : evt { Regs.reset with ref_speed := -1 } 0x20000000 =
    some ({ startingRegs with ref_speed := -1, dir_cmd := .reverse }, some .ok) := by decide

/-- V-BDRV-2: a latched short forbids the start. -/
theorem test_start_latched :
    (evt { Regs.reset with diag := ⟨.shortToVBat, .ok, .ok⟩, glob_fail := true } 0x20000000).map
      (fun p => status0 p.1) = some 0x0010500F := by decide

/-- V-BDRV-5 row 7: STOP keeps the duty. -/
theorem test_stop : evt runningRegs 0x30000000 =
    some ({ runningRegs with mstate := .off, ch := allOff }, some .ok) := by decide

/-- V-SUP-1 row 9. -/
theorem test_stop_off : evt Regs.reset 0x30000000 = some (Regs.reset, some .errState) := by decide

/-- P2 row 1. -/
theorem test_setref : evt runningRegs 0x4000F830 = some ({ runningRegs with ref_speed := -2000 }, some .ok) := by decide

/-- P1 row 5, the worked example of R177. -/
theorem test_tick : evt runningRegs 0x50000000 =
    some ({ runningRegs with stall_cnt := 1, integ := 75, pi_out := 75, duty := 40 }, some .ok) := by decide

/-- R178: the TICK that brings the count to STALL_TICKS = 100 faults, and runs no PI step. -/
theorem test_tick_stall : evt { runningRegs with stall_cnt := 99 } 0x50000000 =
    some ({ runningRegs with stall_cnt := 100, ch := allOff, mstate := .fault, fault_kind := .stallTimeout },
      some .ok) := by decide

/-- The worked example of R113. -/
theorem test_hall : evt { runningRegs with last_ts := 1000, stall_cnt := 3 } 0x60006D63 =
    some ({ runningRegs with
      sector := 1, period := 2500, period_valid := true, last_ts := 3500
      ch := ⟨.off, .pwm, .off, .off, .enabled, .off⟩ }, some .ok) := by decide

/-- V-HALL-10 row 7: the timestamp wraps modulo 2^24. -/
theorem test_hall_wrap :
    (evt { runningRegs with last_ts := 16777215 } 0x60000023).map (fun p => p.1.period) = some 5 := by decide

/-- The worked example of R237 (scenario 3). -/
theorem test_offdiag : evt runningRegs 0x70000004 =
    some ({ runningRegs with
      diag := ⟨.ok, .shortToGnd, .ok⟩, glob_fail := true, ch := allOff, mstate := .fault
      fault_kind := .bridgeDiagnosisFault }, some .ok) := by decide

/-- P3 row 6: a passing answer in Running is not trusted. -/
theorem test_offdiag_running : evt runningRegs 0x70000000 = some (runningRegs, some .errDiagPwm) := by decide

/-- V-BDRV-5 row 1. -/
theorem test_diagol : evt Regs.reset 0x80000001 = some ({ Regs.reset with ol := true }, some .ok) := by decide

/-- V-BDRV-5 row 6. -/
theorem test_diagol_running : evt { runningRegs with ol := true } 0x80000000 =
    some ({ runningRegs with ol := true }, some .errDiagPwm) := by decide

/-- The worked example of R239. -/
theorem test_mon : evt { runningRegs with ien := 0x004 } 0x90000001 =
    some ({ runningRegs with
      ien := 0x004, sts := 0x004, ch := allOff, mstate := .fault, fault_kind := .bridgeDiagnosisFault },
      some .ok) := by decide

/-- V-BDRV-1 row 2: a masked monitor event sets status only. -/
theorem test_mon_masked : evt { Regs.reset with ien := 0x004 } 0x90000009 =
    some ({ Regs.reset with ien := 0x004, sts := 0x008 }, some .ok) := by decide

/-- V-BDRV-1 row 6 and V-BDRV-4: status and latch cleared, the Fault kept. -/
theorem test_clrsts : evt { faultRegs with sts := 0x00C, ien := 0x004, ol := true } 0xA0001FFF =
    some ({ faultRegs with ien := 0x004 }, some .ok) := by decide

/-- The example of R241. -/
theorem test_setint : evt Regs.reset 0xB000001B = some ({ Regs.reset with ien := 0x0C0 }, some .ok) := by decide

/-- V-BDRV-6, and a field of 5 writes nothing. -/
theorem test_bSetbridge : bop Regs.reset 0x10000050 =
    some ({ Regs.reset with ch := ⟨.off, .pwm, .enabled, .off, .off, .off⟩ }, .noValue) := by decide

theorem test_bSetbridge_reserved : bop startingRegs 0x10000005 = some (startingRegs, .noValue) := by decide

/-- V-BDRV-6. -/
theorem test_bSetch : bop Regs.reset 0x20000011 =
    some ({ Regs.reset with ch := ⟨.off, .pwm, .off, .off, .off, .off⟩ }, .noValue) := by decide

theorem test_bSetch_reserved : bop Regs.reset 0x20000029 = some (Regs.reset, .noValue) := by decide

/-- V-BDRV-6. -/
theorem test_bClrsts : bop { Regs.reset with sts := 0x003, ol := true } 0x30000001 =
    some ({ Regs.reset with sts := 0x002, ol := true }, .noValue) := by decide

/-- V-BDRV-6: `which` replaces, it is not an OR. -/
theorem test_bSetint : bop { Regs.reset with ien := 0x0C0 } 0x4000000B =
    some ({ Regs.reset with ien := 0x040 }, .noValue) := by decide

/-- R235. -/
theorem test_bDiagol : bop Regs.reset 0x50000001 = some ({ Regs.reset with ol := true }, .openLoad true) := by decide

/-- V-BDRV-6. -/
theorem test_bOffdiag : bop Regs.reset 0x60000004 =
    some ({ Regs.reset with diag := ⟨.ok, .shortToGnd, .ok⟩, glob_fail := true },
      .diagResult ⟨.ok, .shortToGnd, .ok⟩ true) := by decide

/-- R236: a reserved answer. -/
theorem test_bOffdiag_reserved : bop Regs.reset 0x60000030 = some (Regs.reset, .invalid) := by decide

/-- The first instruction after reset, presented as the host's interface presents it. -/
theorem test_withFetchWord :
    (nextOf (step (State.reset.withFetchWord 32 0x400003E8))).map (fun t => (t.regs.ref_speed, t.pending)) =
      some (1000, []) := by decide

/-! ## Functions (L2.2 to L2.5, L2.7) -/

/-- V-HALL-1 to V-HALL-8, by pattern. -/
theorem test_hallDecode :
    ([0, 1, 2, 3, 4, 5, 6, 7] : List (BitVec 3)).map (hallDecode defaultHallMap) =
      [.sensorFault, .sector 0, .sector 2, .sector 1, .sector 4, .sector 5, .sector 3, .sensorFault] := by decide

/-- V-HALL-9, row 4. -/
theorem test_classify :
    ([0, 1, 2, 3, 4, 5] : List Sector).map (fun s => classify s { runningRegs with sector := 4 }) =
      [.glitch, .glitch, .glitch, .stepRev, .repeated, .stepFwd] := by decide

/-- V-COMM. -/
theorem test_comm_forward :
    ([0, 1, 2, 3, 4, 5] : List Sector).map (fun s => packImage (commEntry cfgT s .forward)) =
      [0x00050, 0x01010, 0x01400, 0x00401, 0x10001, 0x10040] := by decide

theorem test_comm_reverse :
    ([0, 1, 2, 3, 4, 5] : List Sector).map (fun s => packImage (commEntry cfgT s .reverse)) =
      [0x00401, 0x10001, 0x10040, 0x00050, 0x01010, 0x01400] := by decide

/-- V-PWM-2, V-PWM-3, V-PWM-4. -/
theorem test_outStage :
    ([-1, 3, 17, 41] : List Int).map (outStage { cfgT with speedIMin := 5, speedIMax := 30 }) = [5, 5, 17, 30] ∧
    ([-20, -1, 1] : List Int).map (outStage { cfgT with speedIMin := -10 }) = [0, 0, 1] ∧
    ([-20, 1, 100] : List Int).map (outStage { cfgT with speedIMin := 50, speedIMax := 10 }) = [10, 10, 10] := by
  decide

/-- V-PI-8, V-PI-10, V-PI-12. -/
theorem test_piStep : piStep cfgT 75 (-4) = (0, 8) ∧ piStep cfgT 40 0 = (40, 40) ∧ piStep cfgT 0 32768 = (75, 75) := by
  decide

/-- V-PI-16 (the floor corner shows as `raw` = -1), V-PI-17, V-PI-24. -/
theorem test_piStep_frac :
    floorDivPow2 (-90) 8 = -1 ∧ piStep { cfgT with PI_FRAC := 8 } 0 100 = (2000, 42) ∧
    piStep { cfgT with PI_FRAC := 8 } 10240 (-29) = (9660, 27) := by decide

/-- The extreme configuration of V-PI-28 to V-PI-33. -/
def cfgExtreme : Cfg :=
  { cfgT with
    speedKp := 65535, speedKi := 65535, speedIMin := -32768, speedIMax := 32767, speedPiMin := -32768
    speedPiMax := 32767, PI_FRAC := 31 }

/-- V-PI-28, V-PI-29, V-PI-30, V-PI-31. -/
theorem test_piStep_extreme :
    piStep cfgExtreme 0 32768 = (2147450880, 1) ∧ piStep cfgExtreme 0 (-32767) = (-2147385345, -2) ∧
    piStep cfgExtreme 70366596694016 32768 = (70366596694016, 32767) ∧
    piStep cfgExtreme (-70368744177664) (-32767) = (-70368744177664, -32768) := by decide

/-- V-PI-34: limits in the wrong order. -/
theorem test_piStep_illFormed :
    piStep { cfgT with speedIMin := 50, speedIMax := 10 } 0 5 = (10, 75) ∧
    piStep { cfgT with speedIMin := 50, speedIMax := 10 } 0 (-5) = (10, 8) := by decide

/-- V-PI-35. -/
theorem test_speedError :
    speedError cfgT { Regs.reset with ref_speed := -2000, period := 2500, period_valid := true } = 1000 ∧
    speedError cfgT { Regs.reset with ref_speed := -32768 } = 32768 ∧
    speedError cfgT { Regs.reset with period := 1, period_valid := true } = -32767 := by decide

/-- V-PI-36. -/
theorem test_speedOfTest :
    ([0, 76, 77, 305, 2500, 2500000, 2500001] : List (BitVec 24)).map (speedOfTest 4) =
      [32767, 32767, 32467, 8196, 1000, 1, 0] := by decide

/-- P1, end state: STATUS0, STATUS1, STATUS2. -/
theorem test_status :
    ([0, 1, 2, 3] : List (BitVec 2)).map (fun i => statusWord i
      { runningRegs with
        integ := 75, pi_out := 75, duty := 40, last_ts := 15000, period := 2500, period_valid := true, stall_cnt := 1 }) =
      [0x00080102, 0x00000050, 0x004B0028, 0x00000000] := by decide

/-- R154, R133: the active channel is HS1; before a sector the table's output is all Off. -/
theorem test_active : activePwmChannel runningRegs.ch = some 1 ∧ activePwmChannel startingRegs.ch = none ∧
    commOut cfgT startingRegs = allOff := by decide

/-- V-ENC rows as listing lines (R93). -/
theorem test_eventLine :
    ([.setref (-2000), .hall 2500 3, .offdiag 1 2 0, .mon 5 true, .clrsts 0x1FFF, .setint 1 1] : List Instr).map eventLine =
      [some "SETREF -2000", some "HALL 0b011 2500", some "OFFDIAG gnd vbat ok", some "MON HS3 oc",
        some "CLRSTS 0x1FFF", some "SETINT HS1 ds"] := by decide

/-! ## Witnesses: a state and operands that meet the hypotheses of each statement, clause by clause -/

/-- CFG_T of programs P4 and P5 put together: eight fractional bits, three ticks to a stall. -/
def cfgW : Cfg := { cfgT with PI_FRAC := 8, STALL_TICKS := 3 }

theorem witness_wfCfg : WfCfg cfgW := by
  refine ⟨by decide, by decide, by decide, by decide, by decide, ?_, ?_⟩
  · constructor
    · intro a b h
      revert a b
      decide
    · intro s
      revert s
      decide
  · intro s d
    unfold wfEntry
    revert s
    cases d <;> decide

/-- A machine under `cfgW` with an event word pending. -/
def onW (r : Regs) : State := { on r with cfg := cfgW, pending := [encode .tick] }

/-- PwmActiveExactlyInRunning, RunningEnteredByValidHallOnly: the invariant holds in Starting. -/
theorem witness_inv_starting : Inv (onW startingRegs) ∧ (onW startingRegs).regs.mstate = .starting :=
  ⟨⟨witness_wfCfg, by decide, by
    refine ⟨by decide, fun _ => by decide, fun h => absurd h (by decide), by decide, by decide, by decide, by decide,
      fun h => absurd rfl h⟩⟩, rfl⟩

/-- PwmActiveExactlyInRunning, EveryStepKeepsInvariant: the invariant holds in Running. -/
theorem witness_inv_running : Inv (onW runningRegs) ∧ (onW runningRegs).regs.mstate = .running :=
  ⟨⟨witness_wfCfg, by decide, by
    refine ⟨by decide, by decide, fun _ => ⟨rfl, .forward, by decide⟩, by decide, by decide, by decide, by decide, ?_⟩
    intro _
    unfold shootThrough
    decide⟩, rfl⟩

theorem witness_DecodeInvertsEncode :
    Instr.WellFormed (.mon 5 true) ∧ Instr.WellFormed (.offdiag 2 2 2) ∧ Instr.WellFormed (.bSetbridge 0x24924) := by
  decide

theorem witness_EncodeInvertsDecode :
    decode ⟨.evt, 0x7000002A⟩ = .ok (.offdiag 2 2 2) ∧ decode ⟨.bop, 0x2000001D⟩ = .ok (.bSetch 5 3) := by decide

theorem witness_ReservedEventWordsRefused :
    ReservedEvent 0x00000000 ∧ ReservedEvent 0xC0000000 ∧ ReservedEvent 0x90000006 ∧ ¬ ReservedEvent 0x9000000D ∧
      ({ on runningRegs with pending := [⟨.evt, 0x90000006⟩] } : State).pending = ⟨.evt, 0x90000006⟩ :: [] := by
  simp [ReservedEvent, payloadBitSet]

theorem witness_ReservedBopWordsChangeNothing :
    (∀ i, decode ⟨.bop, 0x10000005⟩ ≠ .ok i) ∧ (∀ i, decode ⟨.bop, 0x10040000⟩ ≠ .ok i) ∧
      (∀ i, decode ⟨.bop, 0x70000000⟩ ≠ .ok i) := by
  refine ⟨fun i h => ?_, fun i h => ?_, fun i h => ?_⟩
  · have e : decode ⟨.bop, 0x10000005⟩ = .error (.reservedValue (.bSetbridge 5)) := by decide
    rw [e] at h
    cases h
  · have e : decode ⟨.bop, 0x10040000⟩ = .error .mustBeZero := by decide
    rw [e] at h
    cases h
  · have e : decode ⟨.bop, 0x70000000⟩ = .error .reservedOpcode := by decide
    rw [e] at h
    cases h

theorem witness_TransportBytesLittleEndian :
    wordOfBytes (0x23 :: [0x4E, 0x00, 0x60]) = some (0x60004E23, []) ∧
      ([0x23, 0x4E, 0x00] : List (BitVec 8)).length < 4 := by decide

theorem witness_StepRunsDecodedInstruction :
    (onW runningRegs).pending = ⟨.evt, 0x50000000⟩ :: [] ∧ decode ⟨.evt, 0x50000000⟩ = .ok .tick := by decide

theorem witness_StartPrimesAndEnables :
    (on runningRegs).regs.mstate ≠ .off ∧ (on Regs.reset).regs.mstate = .off ∧
    (on { Regs.reset with glob_fail := true }).regs.glob_fail = true ∧
    (let s : State := { on { Regs.reset with ol := true } with cfg := { cfgT with openLoadFatal := true } }
     s.regs.mstate = .off ∧ s.regs.glob_fail = false ∧ s.regs.ol = true ∧ s.cfg.openLoadFatal = true) ∧
    (let s : State := on { Regs.reset with ol := true }
     s.regs.mstate = .off ∧ s.regs.glob_fail = false ∧ (s.regs.ol = false ∨ s.cfg.openLoadFatal = false)) := by
  decide

/-- StopSwitchesBridgeOff, HallTakesSample, TickCountsAndRunsPi, OffdiagLatchesAndFaults, StallTimeoutAfterStallTicks: the
mode premises. -/
theorem witness_powered_unpowered :
    powered (on startingRegs).regs ∧ powered (on runningRegs).regs ∧ unpowered (on Regs.reset).regs ∧
      unpowered (on faultRegs).regs := by
  unfold powered unpowered
  decide

/-- TransitionTable and FaultKindsHaveTheirCauses: well-formed events in states other than Fault. -/
theorem witness_TransitionTable :
    Instr.port (.offdiag 0 1 0) = .evt ∧ Instr.WellFormed (.offdiag 0 1 0) ∧ (on runningRegs).regs.mstate ≠ .fault ∧
      ReservedEvent 0x90000006 :=
  ⟨by decide, by decide, by decide, by simp [ReservedEvent, payloadBitSet]⟩

theorem witness_RunningEnteredByValidHallOnly :
    Inv (onW startingRegs) ∧ (onW startingRegs).regs.mstate ≠ .running ∧
    ((nextOf (exec (.hall 0 1) (onW startingRegs))).map (fun t => t.regs.mstate) = some .running) ∧
      ((1 : BitVec 3).toNat = (0 : Fin 6).val + 1) := ⟨witness_inv_starting.1, by decide, by decide, by decide⟩

/-- ImageChangesOnlyThroughGate, DutyWrittenOnlyInRunning: an event with a next state that changes
the image, the sector and the duty. -/
theorem witness_nextState :
    (nextOf (exec (.hall 0 3) (on startingRegs))).map (fun t => (t.regs.ch, t.regs.sector, t.regs.duty)) =
      some (commEntry cfgT 1 .forward, 1, 10) := by decide

/-- SectorChangesByOneStep: a first sample, a step by +1 that wraps, a step by +5 that wraps, a rejected sample. -/
theorem witness_SectorChangesByOneStep :
    powered startingRegs ∧ powered runningRegs ∧ startingRegs.sector_valid = false ∧
    ((5 : BitVec 3).toNat = (4 : Fin 6).val + 1) ∧ ((1 : BitVec 3).toNat = (0 : Fin 6).val + 1) ∧
    (runningRegs.sector_valid = true ∧ (cfgT.HALL_MAP.get 4).val = (runningRegs.sector.val + 5) % 6) ∧
    (cfgT.HALL_MAP.get 0).val = (({ runningRegs with sector := 5 } : Regs).sector.val + 1) % 6 ∧
    ¬ acceptedSample (cfgT.HALL_MAP.get 5) runningRegs ∧
    (nextOf (exec (.hall 20 5) (on runningRegs))).map (fun t => t.regs.sector) = some 5 ∧
    (nextOf (exec (.hall 20 1) (on { runningRegs with sector := 5 }))).map (fun t => t.regs.sector) = some 0 := by
  unfold powered acceptedSample
  decide

theorem witness_HallTakesSample :
    invalidPattern 0 ∧ invalidPattern 7 ∧ ((1 : BitVec 3).toNat = (0 : Fin 6).val + 1) ∧
    ((6 : BitVec 3).toNat = (5 : Fin 6).val + 1) ∧ acceptedSample 1 runningRegs ∧ acceptedSample 5 runningRegs ∧
    ¬ acceptedSample 0 runningRegs ∧ ¬ acceptedSample 3 runningRegs := by
  unfold invalidPattern acceptedSample
  decide

theorem witness_TableEntriesNeverShootThrough : wfEntry (commEntry cfgT 5 .reverse) := by
  unfold wfEntry
  decide

theorem witness_OutputStageClampsTwice :
    (let c : Cfg := { cfgT with speedIMax := 40 }
     0 ≤ c.speedIMin.toInt ∧ c.speedIMin.toInt ≤ c.speedIMax.toInt ∧ c.speedIMax.toInt ≤ c.pwmPeriod.toNat) := by
  decide

theorem witness_SetrefWritesReferenceOnly : (-32768 : Int) ≤ -32768 ∧ (-32768 : Int) ≤ 32767 := by decide

theorem witness_SpeedErrorFromMagnitudes :
    0 ≤ (0 : BitVec 16).toInt ∧ (-32768 : BitVec 16).toInt < 0 ∧ Regs.reset.period_valid = false ∧
      ({ Regs.reset with period_valid := true } : Regs).period_valid = true := by decide

theorem witness_TickCountsAndRunsPi :
    cfgT.STALL_TICKS.toNat ≤ ({ runningRegs with stall_cnt := 99 } : Regs).stall_cnt.toNat + 1 ∧
    ({ runningRegs with stall_cnt := 98 } : Regs).stall_cnt.toNat + 1 < cfgT.STALL_TICKS.toNat ∧
    piStep cfgT runningRegs.integ.toInt (speedError cfgT runningRegs) = (75, 75) := by decide

theorem witness_ClampsHoldAfterEveryPiStep :
    WfCfg (onW runningRegs).cfg ∧ (onW runningRegs).regs.mstate = .running ∧
    (onW runningRegs).regs.stall_cnt.toNat + 1 < (onW runningRegs).cfg.STALL_TICKS.toNat ∧
    cfgW.speedIMin = 0 ∧ cfgW.speedIMax = 75 ∧ cfgW.speedPiMin = 8 ∧ cfgW.speedPiMax = 75 ∧ cfgW.pwmPeriod = 40 :=
  ⟨witness_wfCfg, by decide, by decide, by decide⟩

theorem witness_PiStepFixedPointAtZeroError :
    cfgW.speedIMin.toInt * 2 ^ cfgW.PI_FRAC.val ≤ 19200 ∧ 19200 ≤ cfgW.speedIMax.toInt * 2 ^ cfgW.PI_FRAC.val := by
  decide

/-- Two ticks from the limit of 100, and no more words. -/
theorem witness_StallTimeoutAfterStallTicks :
    (on { runningRegs with stall_cnt := 98 }).regs.stall_cnt.toNat + (1 + 1) =
      (on { runningRegs with stall_cnt := 98 }).cfg.STALL_TICKS.toNat ∧
    ({ on { runningRegs with stall_cnt := 98 } with pending := [encode .tick, encode .tick] } : State).pending =
      List.replicate (1 + 1) (encode .tick) ++ [] := by decide

/-- OffdiagLatchesAndFaults, BopDiagnosisLatchesAnswers: a reserved answer, a failing and a passing diagnosis. -/
theorem witness_OffdiagLatchesAndFaults :
    DiagPhase.code .shortToVBat = 2 ∧ failing 0 0 2 ∧ ¬ failing 0 0 0 ∧ ((3 : BitVec 2) = 3) := by
  unfold failing
  decide

theorem witness_DiagolLatchesAndFaults :
    (let s : State := { on startingRegs with cfg := { cfgT with openLoadFatal := true } }
     s.regs.mstate = .starting ∧ s.cfg.openLoadFatal = true) ∧
    (on startingRegs).cfg.openLoadFatal = false := by decide

/-- MonSetsStatusAndFaults, EnableBitsReplacedPerChannel: channels 5 and 6, and the highest enable bit. -/
theorem witness_MonSetsStatusAndFaults :
    5 < (6 : BitVec 3).toNat ∧ (5 : BitVec 3).toNat ≤ 5 ∧ (0x800 : BitVec 12).getLsbD (2 * 5 + 1) = true ∧
      powered (on { runningRegs with ien := 0x800 }).regs := by
  unfold powered
  decide

/-- SetbridgeWritesWholeImage: a field of 5, and every field at most 4 with the greatest code in the highest field. -/
theorem witness_SetbridgeWritesWholeImage :
    (∃ i : Fin 6, 5 ≤ (0x28000 : BitVec 18).toNat / 8 ^ i.val % 8) ∧
      ∀ i : Fin 6, (0x20000 : BitVec 18).toNat / 8 ^ i.val % 8 ≤ 4 := by decide

theorem witness_SetchWritesOneField :
    5 < (6 : BitVec 3).toNat ∧ 4 < (5 : BitVec 3).toNat ∧ (5 : BitVec 3).toNat ≤ 5 ∧ (4 : BitVec 3).toNat ≤ 4 := by decide

theorem witness_BopChangesOnlyBdrvRegisters : Instr.port (.bSetch 1 2) = .bop := by decide

theorem witness_ResponseCodesHaveTheirCauses :
    (onW runningRegs).pending = ⟨.evt, 0x50000000⟩ :: [] ∧
      decode ⟨.evt, 0x70000000⟩ = .ok (.offdiag 0 0 0) ∧ AnswersErrDiagPwm (.offdiag 0 0 0) .running ∧
      decode ⟨.evt, 0x30000000⟩ = .ok .stop ∧ AnswersErrState .stop .fault :=
  ⟨by decide, by decide, ⟨.inl rfl, rfl⟩, by decide, .inr (.inl ⟨rfl, .inr rfl⟩)⟩

/-- Each cause of a fault, from a state that is not Fault: HALL, TICK, OFFDIAG, MON, DIAGOL, START. -/
theorem witness_FaultStepSwitchesBridgeOff :
    let m := fun (i : Instr) (s : State) => (nextOf (exec i s)).map (fun t => (s.regs.mstate, t.regs.mstate))
    m (.hall 20 7) (on runningRegs) = some (.running, .fault) ∧
    m .tick (on { startingRegs with stall_cnt := 99 }) = some (.starting, .fault) ∧
    m (.offdiag 0 1 0) (on runningRegs) = some (.running, .fault) ∧
    m (.mon 5 true) (on { runningRegs with ien := 0x800 }) = some (.running, .fault) ∧
    m (.diagol true) { on startingRegs with cfg := { cfgT with openLoadFatal := true } } = some (.starting, .fault) ∧
    m .start (on { Regs.reset with glob_fail := true }) = some (.off, .fault) := by decide

theorem witness_NoSecondFaultInFault :
    (on faultRegs).regs.mstate = .fault ∧ Instr.WellFormed (.mon 5 false) ∧ Instr.WellFormed (.offdiag 0 1 0) := by decide

theorem witness_OnlyInitLeavesFault :
    (nextOf (exec .init (on faultRegs))).isSome = true ∧
      ({ on faultRegs with pending := reinit.map encode } : State).pending = encode .init :: encode .start :: [] := by
  decide

theorem witness_EveryStepKeepsInvariant :
    Inv (onW runningRegs) ∧ (nextOf (step (onW runningRegs))).map (fun t => t.regs.stall_cnt) = some 1 :=
  ⟨witness_inv_running.1, by decide⟩

/-- ReachableStatesMeetInvariant, ResetMeetsInvariant. -/
theorem witness_ReachableStatesMeetInvariant : WfCfg cfgW ∧ WfCfg (State.resetWith cfgW).cfg :=
  ⟨witness_wfCfg, witness_wfCfg⟩

/-- StatusOnlyRegistersReadByNoRule, UnusedConfigurationReadByNoRule: an event with a next state. -/
theorem witness_statusOnly : ∃ t, exec .tick (on runningRegs) = .next t := ⟨_, rfl⟩

theorem witness_TableOutputBeforeFirstSample :
    Inv (onW startingRegs) ∧ Inv (onW runningRegs) := ⟨witness_inv_starting.1, witness_inv_running.1⟩

end Sys2Proof.Tests
end

/-! ## Scope (00_scope.md): what every step and every run take from the ports -/

namespace Sys2Proof.Machine

open Sys2Proof

/-- R6, R37, R67: a step always answers a next state, the first pending word taken (where there is one) and the
configuration as it was. -/
theorem step_next (s : State) : ∃ t, step s = .next t ∧ t.pending = s.pending.tail ∧ t.cfg = s.cfg := by
  obtain ⟨hp, hs⟩ | ⟨f, rest, hp, ⟨i, -, hs⟩ | ⟨-, hs⟩⟩ := step_cases s
  · exact ⟨s, hs, by simp [hp], rfl⟩
  · obtain ⟨t, he, -, hcfg, hpend⟩ := exec_next i (s.taken rest)
    exact ⟨t, hs.trans he, by simp [hpend, hp], hcfg⟩
  · obtain ⟨-, hcfg, hpend⟩ := refuseWord_inv f.port (s.taken rest)
    exact ⟨_, hs, by simp [hpend, hp], hcfg⟩

/-- A run of any machine continues from the next state of its first step. -/
theorem run_succ_of_step (M : Host.Core) {s t : M.State} (n : Nat) (h : M.step s = .next t) :
    M.run (n + 1) s = M.run n t := by
  rw [Host.Core.run, h]

/-- Settles O9: by the cases of a step, and the idle step is the identity. -/
theorem everyStepTakesOneWord : Obligations.EveryStepTakesOneWord := by
  intro s
  obtain ⟨t, hs, hpend, hcfg⟩ := step_next s
  exact ⟨t, hs, hpend, hcfg, fun hidle => Host.Outcome.next.inj (hs.symm.trans (step_idle hidle))⟩

/-- Settles O10, by induction on the number of steps: the first step takes the head, the other `n` drop `n` words of
the tail. -/
theorem runTakesEachWordOnce : Obligations.RunTakesEachWordOnce := by
  intro n
  induction n with
  | zero => exact fun s => ⟨s, rfl, rfl, rfl⟩
  | succ n ih =>
    intro s
    obtain ⟨u, hs, hpend, hcfg⟩ := step_next s
    obtain ⟨t, hrun, htpend, htcfg⟩ := ih u
    exact ⟨t, (run_succ_of_step core n hs).trans hrun, by rw [htpend, hpend, List.drop_tail], htcfg.trans hcfg⟩

end Sys2Proof.Machine

/-! ## State (10_state.md): the invariants of R45 -/

namespace Sys2Proof.Machine

open Sys2Proof Sys2Proof.Safety

/-! ### Images without shoot-through -/

@[simp] theorem allOff_get (c : Channel) : allOff.get c = .off := Six.get_replicate _ _

@[simp] theorem allEn_get (c : Channel) : allEn.get c = .enabled := Six.get_replicate _ _

/-- R136: no leg of the all-Off image has an active side. -/
theorem not_shootThrough_allOff : ¬ shootThrough allOff := by
  simp [shootThrough, active]

/-- R132, R136: a well-formed entry has one active side on each of two different legs. -/
theorem not_shootThrough_of_wfEntry {g : Image} (h : wfEntry g) : ¬ shootThrough g := by
  obtain ⟨a, b, hab, -, -, hoff⟩ := h
  have high_off : ∀ l, l ≠ a → g.get (highSide l) = .off := fun l hl =>
    hoff _ (by simp [highSide, Fin.ext_iff] at *; omega) (by simp [highSide, lowSide]; omega)
  have low_off : ∀ l, l ≠ b → g.get (lowSide l) = .off := fun l hl =>
    hoff _ (by simp [highSide, lowSide]; omega) (by simp [lowSide, Fin.ext_iff] at *; omega)
  rintro ⟨l, hhigh, hlow⟩
  by_cases hla : l = a
  · simp [low_off l (hla ▸ hab), active] at hlow
  · simp [high_off l hla, active] at hhigh

/-! ### R45 by `mstate` -/

/-- R236: the computed flag of a diagnosis, as (g) of R45 words it. -/
theorem globalFail_iff_phases (d : DiagFields) :
    globalFail d = true ↔ d.p0 ≠ .ok ∨ d.p1 ≠ .ok ∨ d.p2 ≠ .ok := by
  simp [globalFail, or_assoc]

section
variable {cfg : Cfg} {r : Regs} (hduty : r.duty.toNat ≤ cfg.pwmPeriod.toNat)
  (hdiag : r.glob_fail = true ↔ r.diag.p0 ≠ .ok ∨ r.diag.p1 ≠ .ok ∨ r.diag.p2 ≠ .ok)
include hduty hdiag

/-- R45 in Off and in Fault. -/
theorem regInv_of_unpowered (hm : r.mstate = .off ∨ r.mstate = .fault) (hch : r.ch = allOff)
    (hk : r.fault_kind ≠ .none ↔ r.mstate = .fault) : RegInv cfg r where
  off_or_fault_allOff _ c := by rw [hch, allOff_get]
  starting_allEnabled h := by simp [h] at hm
  running_tableEntry h := by simp [h] at hm
  faultKind_iff := hk
  duty_le_period := hduty
  stall_below_limit h := by rcases h with h | h <;> simp [h] at hm
  globFail_iff := hdiag
  no_shootThrough _ := hch ▸ not_shootThrough_allOff

/-- R45 in Off. -/
theorem regInv_of_off (hm : r.mstate = .off) (hch : r.ch = allOff) (hk : r.fault_kind = .none) : RegInv cfg r :=
  regInv_of_unpowered hduty hdiag (.inl hm) hch (by simp [hm, hk])

/-- R45 in Fault. -/
theorem regInv_of_fault (hm : r.mstate = .fault) (hch : r.ch = allOff) (hk : r.fault_kind ≠ .none) : RegInv cfg r :=
  regInv_of_unpowered hduty hdiag (.inr hm) hch (by simp [hm, hk])

/-- R45 in Starting. -/
theorem regInv_of_starting (hm : r.mstate = .starting) (hch : r.ch = allEn) (hk : r.fault_kind = .none)
    (hs : r.sector_valid = false) (hstall : r.stall_cnt.toNat < cfg.STALL_TICKS.toNat) : RegInv cfg r where
  off_or_fault_allOff h := by simp [hm] at h
  starting_allEnabled _ := ⟨fun c => by rw [hch, allEn_get], hs⟩
  running_tableEntry h := by simp [hm] at h
  faultKind_iff := by simp [hm, hk]
  duty_le_period := hduty
  stall_below_limit _ := hstall
  globFail_iff := hdiag
  no_shootThrough h := absurd hm h

/-- R45 in Running. -/
theorem regInv_of_running (hw : WfCfg cfg) (hm : r.mstate = .running) {d : Direction}
    (hch : r.ch = commEntry cfg r.sector d) (hk : r.fault_kind = .none)
    (hs : r.sector_valid = true) (hstall : r.stall_cnt.toNat < cfg.STALL_TICKS.toNat) : RegInv cfg r where
  off_or_fault_allOff h := by simp [hm] at h
  starting_allEnabled h := by simp [hm] at h
  running_tableEntry _ := ⟨hs, d, hch⟩
  faultKind_iff := by simp [hm, hk]
  duty_le_period := hduty
  stall_below_limit _ := hstall
  globFail_iff := hdiag
  no_shootThrough _ := hch ▸ not_shootThrough_of_wfEntry (hw.comm_wfEntry _ d)

end

/-- (d) of R45: no fault kind outside Fault. -/
theorem faultKind_eq_none {cfg : Cfg} {r : Regs} (h : RegInv cfg r) (hm : r.mstate ≠ .fault) : r.fault_kind = .none :=
  not_not.mp (mt h.faultKind_iff.mp hm)

/-- R45 at reset. -/
theorem regInv_reset (cfg : Cfg) : RegInv cfg Regs.reset :=
  regInv_of_off (Nat.zero_le _) (by decide) rfl rfl rfl

/-- (e) of R45 for a duty that the output stage gives (R150). -/
theorem outStage_le_period (cfg : Cfg) (d : Int) :
    (BitVec.ofInt 16 (outStage cfg d)).toNat ≤ cfg.pwmPeriod.toNat := by
  have hd := duty_toNat cfg d
  have hp := (outStage_mem cfg d).2
  omega

/-- (f) of R45 after a count that is below the limit. -/
theorem stall_succ_lt {cfg : Cfg} {c : BitVec 16} (h : c.toNat + 1 < cfg.STALL_TICKS.toNat) :
    (c + 1).toNat < cfg.STALL_TICKS.toNat := by
  have hp := cfg.STALL_TICKS.isLt
  rw [BitVec.toNat_add, show BitVec.toNat (1 : BitVec 16) = 1 from rfl]
  omega

/-! ### Every event keeps R45 -/

section
variable {cfg : Cfg} {r : Regs} (h : RegInv cfg r)
include h

/-- START: refused, a fault of a latch, or Starting with every channel Enabled (R202). -/
theorem startEvent_regInv (hw : WfCfg cfg) : RegInv cfg (startEvent cfg r).1 := by
  rcases startEvent_cases cfg r with ⟨-, e⟩ | ⟨-, -, e⟩ | ⟨-, -, -, -, e⟩ | ⟨hm, -, -, e⟩ <;> rw [e]
  · exact h
  · rw [enterFault_eq]
    exact regInv_of_fault h.duty_le_period h.globFail_iff rfl rfl (by simp)
  · rw [enterFault_eq]
    exact regInv_of_fault h.duty_le_period h.globFail_iff rfl rfl (by simp)
  · have hk : r.fault_kind = .none := faultKind_eq_none h (by simp [hm])
    exact regInv_of_starting h.duty_le_period h.globFail_iff rfl rfl hk rfl hw.stallTicks_pos

/-- STOP: Off with every channel Off, or refused (R203). -/
theorem stopEvent_regInv : RegInv cfg (stopEvent r).1 := by
  rcases stopEvent_cases r with ⟨hm, e⟩ | ⟨-, e⟩ <;> rw [e]
  · have hk : r.fault_kind = .none := faultKind_eq_none h (by rcases hm with hm | hm <;> simp [hm])
    exact regInv_of_off h.duty_le_period h.globFail_iff rfl rfl hk
  · exact h

/-- TICK: the count stays below the limit outside a stall fault, and the duty is of the output stage (R177). -/
theorem tickEvent_regInv : RegInv cfg (tickEvent cfg r).1 := by
  rcases tickEvent_cases cfg r with ⟨-, e⟩ | ⟨-, -, e⟩ | ⟨-, hl, e⟩ | ⟨-, hl, e⟩ <;> rw [e]
  · exact h
  · exact regInv_of_fault h.duty_le_period h.globFail_iff rfl rfl (by simp)
  · exact { h with stall_below_limit := fun _ => stall_succ_lt hl }
  · exact { h with stall_below_limit := fun _ => stall_succ_lt hl, duty_le_period := outStage_le_period _ _ }

/-- A valid sample: in Starting it is the first one and enters Running; in Running an accepted one commits the entry of
its sector and clears the count, and every other one writes nothing (R113). -/
theorem hallSample_regInv (hw : WfCfg cfg) (s : Sector) (ts : BitVec 24)
    (hm : r.mstate = .starting ∨ r.mstate = .running) : RegInv cfg (hallSample cfg s ts r) := by
  have hk : r.fault_kind = .none := faultKind_eq_none h (by rcases hm with hm | hm <;> simp [hm])
  rcases hm with hm | hm
  · have hfirst : classify s r = .first := by simp [classify, (h.starting_allEnabled hm).2]
    rw [hallSample_starting cfg s ts hm, hfirst]
    exact regInv_of_running (outStage_le_period _ _) h.globFail_iff hw rfl rfl hk rfl hw.stallTicks_pos
  · obtain ⟨hv, -⟩ := h.running_tableEntry hm
    rw [hallSample_running cfg s ts hm]
    cases classify s r with
    | first => exact regInv_of_running h.duty_le_period h.globFail_iff hw hm rfl hk rfl hw.stallTicks_pos
    | stepFwd => exact regInv_of_running h.duty_le_period h.globFail_iff hw hm rfl hk hv hw.stallTicks_pos
    | stepRev => exact regInv_of_running h.duty_le_period h.globFail_iff hw hm rfl hk hv hw.stallTicks_pos
    | repeated => exact h
    | glitch => exact h

/-- HALL: refused, a sensor fault, or a valid sample (R113). -/
theorem hallEvent_regInv (hw : WfCfg cfg) (ts : BitVec 24) (pat : BitVec 3) :
    RegInv cfg (hallEvent cfg ts pat r).1 := by
  rcases hallEvent_cases cfg ts pat r with ⟨-, e⟩ | ⟨-, -, e⟩ | ⟨hm, -, k, -, e⟩ <;> rw [e]
  · exact h
  · exact regInv_of_fault h.duty_le_period h.globFail_iff rfl rfl (by simp)
  · exact hallSample_regInv h hw _ ts hm

/-- OFFDIAG: the latched flag is the one of the latched phases, and a failing answer of a powered bridge is a fault
(R236, R237). -/
theorem offdiagEvent_regInv (r0 r1 r2 : BitVec 2) : RegInv cfg (offdiagEvent r0 r1 r2 r).1 := by
  rcases offdiagEvent_cases r0 r1 r2 r with
    ⟨-, e⟩ | ⟨-, d, -, -, -, ⟨-, e⟩ | ⟨-, hg, e⟩ | ⟨-, -, e⟩ | ⟨-, hg, e⟩ | ⟨-, e⟩⟩ <;> rw [e]
  · exact h
  · exact { h with globFail_iff := globalFail_iff_phases d }
  · exact { h with globFail_iff := hg ▸ globalFail_iff_phases d }
  · exact h
  · exact regInv_of_fault h.duty_le_period (hg ▸ globalFail_iff_phases d) rfl rfl (by simp)
  · exact h

/-- DIAGOL: only the open-load latch, which R45 does not name, unless it is a fault (R238). -/
theorem diagolEvent_regInv (o : Bool) : RegInv cfg (diagolEvent cfg o r).1 := by
  rcases diagolEvent_cases cfg o r with ⟨-, e⟩ | ⟨-, -, e⟩ | ⟨-, -, -, e⟩ | ⟨-, e⟩ | ⟨-, e⟩ <;> rw [e]
  · exact { h with }
  · exact { h with }
  · exact regInv_of_fault h.duty_le_period h.globFail_iff rfl rfl (by simp)
  · exact h
  · exact h

/-- MON: only a status bit, which R45 does not name, unless it is a fault (R239). -/
theorem monEvent_regInv (chn : BitVec 3) (kind : Bool) : RegInv cfg (monEvent chn kind r).1 := by
  rcases monEvent_cases chn kind r with ⟨-, e⟩ | ⟨-, -, -, e⟩ | ⟨-, -, e⟩ <;> rw [e]
  · exact h
  · exact regInv_of_fault h.duty_le_period h.globFail_iff rfl rfl (by simp)
  · exact { h with }

/-- SETINT: only the enables, which R45 does not name (R241). -/
theorem setintEvent_regInv (chn : BitVec 3) (which : BitVec 2) : RegInv cfg (setintEvent chn which r).1 := by
  rcases setintEvent_cases chn which r with ⟨-, e, -⟩ | ⟨-, k, -, e, -⟩ <;> rw [e]
  · exact h
  · exact { h with }

/-- R45: every event keeps (a) to (h). -/
theorem regsAfter_regInv (hw : WfCfg cfg) {i : Instr} (hi : i.port = .evt) : RegInv cfg (regsAfter i cfg r) := by
  cases i with
  | init => simpa [regsAfter, initEvent] using regInv_reset cfg
  | start => exact startEvent_regInv h hw
  | stop => exact stopEvent_regInv h
  | setref _ => exact { h with }
  | tick => exact tickEvent_regInv h
  | hall ts pat => exact hallEvent_regInv h hw ts pat
  | offdiag r0 r1 r2 => exact offdiagEvent_regInv h r0 r1 r2
  | diagol o => exact diagolEvent_regInv h o
  | mon chn kind => exact monEvent_regInv h chn kind
  | clrsts _ => exact { h with }
  | setint chn which => exact setintEvent_regInv h chn which
  | bSetbridge _ | bSetch _ _ | bClrsts _ | bSetint _ _ | bDiagol _ | bOffdiag _ _ _ => cases hi

end

/-! ### The words of the event port -/

/-- The instruction a payload check names is the one it was given. -/
theorem payload_port {p : Port} {w : Word} {lo : Nat} {i j : Instr} (hi : i.port = p)
    (hj : payload w lo i = .ok j ∨ payload w lo i = .error (.reservedValue j)) : j.port = p := by
  rcases payload_cases w lo i with ⟨-, e⟩ | ⟨-, -, e⟩ | ⟨-, -, e⟩ <;> simp_all

/-- R84: a word of the event port names events only. -/
theorem decodeEvt_port {w : Word} {i : Instr}
    (h : decodeEvt w = .ok i ∨ decodeEvt w = .error (.reservedValue i)) : i.port = .evt := by
  unfold decodeEvt at h
  split at h
  case h_12 => simp at h
  all_goals exact payload_port rfl h

/-- R61, R84: the rule followed for a word of the event port is an event's. -/
theorem followed_port {f : PortWord} {i : Instr} (hf : f.port = .evt) (hi : followed f = some i) : i.port = .evt := by
  have hd : decode f = decodeEvt f.word := by rw [decode, hf]
  apply decodeEvt_port (w := f.word)
  rw [← hd]
  unfold followed at hi
  split at hi <;> simp_all

/-! ### Steps and runs -/

/-- Settles O47: a step is idle, an event's rule, or a refusal; the event's rule keeps R45, and the words still pending
are among those that were. -/
theorem everyStepKeepsInvariant : Obligations.EveryStepKeepsInvariant := by
  rintro s t ⟨hw, hev, hr⟩ hstep
  obtain ⟨hidle, hs⟩ | ⟨f, rest, hp, hs⟩ := step_cases s
  · obtain rfl := Host.Outcome.next.inj (hs.symm.trans hstep)
    exact ⟨hw, hev, hr⟩
  · have hrest : ∀ g ∈ rest, g.port = .evt := fun g hg => hev g (hp ▸ List.mem_cons_of_mem f hg)
    obtain ⟨i, hi, hs⟩ | ⟨-, hs⟩ := hs
    · have hport := followed_port (hev f (hp ▸ List.mem_cons_self)) hi
      obtain ⟨hregs, hcfg, hpend⟩ := exec_inv (hs.symm.trans hstep)
      exact ⟨hcfg ▸ hw, hpend ▸ hrest, hcfg ▸ hregs ▸ regsAfter_regInv hr hw hport⟩
    · obtain rfl := Host.Outcome.next.inj (hs.symm.trans hstep)
      obtain ⟨hregs, hcfg, hpend⟩ := refuseWord_inv f.port (s.taken rest)
      exact ⟨hcfg ▸ hw, hpend ▸ hrest, hcfg ▸ hregs ▸ hr⟩

/-- Settles O48: every register of R45 at its reset value. -/
theorem resetMeetsInvariant : Obligations.ResetMeetsInvariant :=
  fun cfg hw => ⟨hw, fun _ hf => absurd hf List.not_mem_nil, regInv_reset cfg⟩

/-- R45 along a run: every number of steps keeps the invariant and the configuration. -/
theorem run_keeps_inv (n : Nat) {s : State} (h : Inv s) :
    ∃ t : State, Host.Core.run core n s = .next t ∧ t.cfg = s.cfg ∧ Inv t := by
  induction n generalizing s with
  | zero => exact ⟨s, rfl, rfl, h⟩
  | succ n ih =>
    obtain ⟨u, hs, -, hcfg⟩ := step_next s
    obtain ⟨t, hrun, htcfg, ht⟩ := ih (everyStepKeepsInvariant s u h hs)
    exact ⟨t, (run_succ_of_step core n hs).trans hrun, htcfg.trans hcfg, ht⟩

/-- Settles O49: the invariant at reset, kept along the run. -/
theorem reachableStatesMeetInvariant : Obligations.ReachableStatesMeetInvariant := by
  intro cfg events n hw
  have hreset : Inv { State.resetWith cfg with pending := events.map (PortWord.mk .evt) } :=
    { resetMeetsInvariant cfg hw with events_only := by simp }
  obtain ⟨t, hrun, (hcfg : t.cfg = cfg), ht⟩ := run_keeps_inv n hreset
  exact ⟨t, hrun, hcfg, hcfg ▸ ht.regs_inv⟩

end Sys2Proof.Machine

/-! ## State (10_state.md): the status port, the configuration, and what no rule reads -/

namespace Sys2Proof.Machine

open Sys2Proof

/-! ### The status port (R40, R42) -/

/-- R42: the fault interrupt shows the state Fault. -/
theorem irqFault_iff (r : Regs) : irqFault r = true ↔ r.mstate = .fault := by simp [irqFault]

/-- R40: STATUS0 is the sum of its fields at their bit places. -/
theorem status0_toNat (r : Regs) : (status0 r).toNat =
      r.mstate.code.toNat + r.fault_kind.code.toNat * 2 ^ 2 + r.sector.val * 2 ^ 5 + r.sector_valid.toNat * 2 ^ 8 +
      (directionBit r.dir_cmd).toNat * 2 ^ 9 + (directionBit r.dir_obs).toNat * 2 ^ 10 + r.ol.toNat * 2 ^ 11 +
      r.glob_fail.toNat * 2 ^ 12 + r.diag.p0.code.toNat * 2 ^ 13 + r.diag.p1.code.toNat * 2 ^ 15 +
      r.diag.p2.code.toNat * 2 ^ 17 + r.period_valid.toNat * 2 ^ 19 + (irqFault r).toNat * 2 ^ 20 := by
  have hsector : (BitVec.ofNat 3 r.sector.val).toNat = r.sector.val := by
    have := r.sector.isLt
    rw [BitVec.toNat_ofNat]
    omega
  refine (toNat_append_eq _ _).trans ?_
  simp only [toNat_append_eq, BitVec.toNat_ofBool, BitVec.toNat_ofNat, hsector]
  omega

/-- R40: STATUS1 is the packed image. -/
theorem status1_toNat (r : Regs) : (status1 r).toNat = (packImage r.ch).toNat := by
  refine (toNat_append_eq _ _).trans ?_
  simp

/-- R40: STATUS2 is `duty` below `pi_out`. -/
theorem status2_toNat (r : Regs) : (status2 r).toNat = r.duty.toNat + r.pi_out.toNat * 2 ^ 16 :=
  (toNat_append_eq _ _).trans (Nat.add_comm _ _)

/-- R40: STATUS3 is `sts` below `ien`. -/
theorem status3_toNat (r : Regs) : (status3 r).toNat = r.sts.toNat + r.ien.toNat * 2 ^ 12 := by
  refine (toNat_append_eq _ _).trans ?_
  simp only [toNat_append_eq, BitVec.toNat_ofNat]
  omega

/-- Settles O46: the codes by evaluation, the four words as sums of appended fields. -/
theorem statusPortLayout : Obligations.StatusPortLayout :=
  ⟨by decide, by decide, by decide, by decide, by decide, fun r =>
    ⟨irqFault_iff r, status0_toNat r, status1_toNat r, status2_toNat r, status3_toNat r⟩⟩

/-! ### CFG_T (R39) -/

/-- R131, R132: a six-step entry over two different legs is well-formed. -/
theorem wfEntry_sixStepEntry {hs ls : Fin 3} (h : hs ≠ ls) : wfEntry (sixStepEntry hs ls) := by
  have hget : ∀ c, (sixStepEntry hs ls).get c =
      if c = lowSide ls then .enabled else if c = highSide hs then .pwm else .off := fun c => by
    rw [sixStepEntry, Six.get_set, Six.get_set, Six.get_replicate]
    rfl
  have hne : highSide hs ≠ lowSide ls := by simp [highSide, lowSide]; omega
  refine ⟨hs, ls, h, ?_, ?_, fun c hhigh hlow => ?_⟩
  · simp [hget, hne]
  · simp [hget]
  · simp [hget, hhigh, hlow]

/-- R131: every entry of the default table is a six-step entry over two different legs. -/
theorem commEntry_cfgT (s : Sector) (d : Direction) :
    ∃ hs ls : Fin 3, hs ≠ ls ∧ commEntry cfgT s d = sixStepEntry hs ls := by
  cases d <;> revert s <;> decide

/-- R111: the default Hall map takes different patterns to different sectors, hence onto all six. -/
theorem defaultHallMap_bijective : Function.Bijective defaultHallMap.get := by
  have hinj : ∀ a b, defaultHallMap.get a = defaultHallMap.get b → a = b := by decide
  exact Finite.injective_iff_bijective.mp hinj

/-- Settles O20: the limits by evaluation, the two tables by their own lemmas. -/
theorem defaultConfigurationWellFormed : Obligations.DefaultConfigurationWellFormed where
  iMin_le_iMax := by decide
  piMin_le_piMax := by decide
  pwmPeriod_pos := by decide
  polePairs_pos := by decide
  stallTicks_pos := by decide
  hallMap_bijective := defaultHallMap_bijective
  comm_wfEntry s d := by
    obtain ⟨hs, ls, hne, e⟩ := commEntry_cfgT s d
    exact e ▸ wfEntry_sixStepEntry hne

/-! ### The configuration fields no rule reads (R37, R8) -/

/-- Settles O51: the meanings that are given the configuration read it through other fields, so each side of the
statement computes to the other; the remaining meanings are not given it. -/
theorem unusedConfigurationReadByNoRule : Obligations.UnusedConfigurationReadByNoRule := by
  intro i s t a m u h
  cases i with
  | start | tick | hall _ _ | diagol _ =>
    cases h
    rfl
  | _ =>
    cases h
    rfl

/-! ### The registers no rule reads (R25, R28) -/

/-- The registers with other values in the two that only the status port shows. -/
def withShown (o : BitVec 16) (d : Direction) (r : Regs) : Regs := { r with pi_out := o, dir_obs := d }

/-- Two results of a meaning differ in the status-only registers alone: `y` with those of `x` is `x`. -/
def AlikeButShown {α : Type} (x y : Regs × α) : Prop := (withShown x.1.pi_out x.1.dir_obs y.1, y.2) = x

/-! Each meaning takes the same branch in both states, for no condition names `pi_out` or `dir_obs`, and in each branch
writes the two registers or leaves them. -/

section
variable (o : BitVec 16) (d : Direction) (r : Regs)

theorem setBridge_alike (b : BopReturn) (img : BitVec 18) :
    AlikeButShown (setBridge img r, b) (setBridge img (withShown o d r), b) := by
  unfold setBridge
  cases unpackImage img <;> rfl

theorem setChannel_alike (b : BopReturn) (chn cfgv : BitVec 3) :
    AlikeButShown (setChannel chn cfgv r, b) (setChannel chn cfgv (withShown o d r), b) := by
  unfold setChannel
  cases channelOfCode chn <;> cases configOfCode cfgv <;> rfl

theorem setInterrupt_alike {α : Type} (b : α) (chn : BitVec 3) (which : BitVec 2) :
    AlikeButShown (setInterrupt chn which r, b) (setInterrupt chn which (withShown o d r), b) := by
  unfold setInterrupt
  cases channelOfCode chn <;> rfl

theorem offDiagnosis_alike (r0 r1 r2 : BitVec 2) :
    AlikeButShown (offDiagnosis r0 r1 r2 r) (offDiagnosis r0 r1 r2 (withShown o d r)) := by
  unfold offDiagnosis
  cases diagFieldsOfCodes r0 r1 r2 <;> rfl

theorem startEvent_alike (cfg : Cfg) : AlikeButShown (startEvent cfg r) (startEvent cfg (withShown o d r)) := by
  dsimp only [startEvent, withShown]
  split_ifs <;> rfl

theorem stopEvent_alike : AlikeButShown (stopEvent r) (stopEvent (withShown o d r)) := by
  dsimp only [stopEvent, withShown]
  split_ifs <;> rfl

theorem tickEvent_alike (cfg : Cfg) : AlikeButShown (tickEvent cfg r) (tickEvent cfg (withShown o d r)) := by
  dsimp only [tickEvent, tickBelowLimit, runPi, writeDuty, withShown]
  split_ifs <;> rfl

theorem hallSample_alike (cfg : Cfg) (s : Sector) (ts : BitVec 24) (c : Resp)
    (hm : r.mstate = .starting ∨ r.mstate = .running) :
    AlikeButShown (hallSample cfg s ts r, c) (hallSample cfg s ts (withShown o d r), c) := by
  have hclass : classify s (withShown o d r) = classify s r := rfl
  rcases hm with hm | hm
  · rw [hallSample_starting cfg s ts hm, hallSample_starting cfg s ts (r := withShown o d r) hm, hclass]
    cases classify s r <;> rfl
  · rw [hallSample_running cfg s ts hm, hallSample_running cfg s ts (r := withShown o d r) hm, hclass]
    cases classify s r <;> rfl

theorem hallEvent_alike (cfg : Cfg) (ts : BitVec 24) (pat : BitVec 3) :
    AlikeButShown (hallEvent cfg ts pat r) (hallEvent cfg ts pat (withShown o d r)) := by
  dsimp only [hallEvent, withShown]
  split_ifs with hm
  · rfl
  · cases hallDecode cfg.HALL_MAP pat with
    | sensorFault => rfl
    | sector s =>
      have hpow : r.mstate = .starting ∨ r.mstate = .running := by revert hm; cases r.mstate <;> simp
      exact hallSample_alike o d r cfg s ts .ok hpow

theorem offdiagEvent_alike (r0 r1 r2 : BitVec 2) :
    AlikeButShown (offdiagEvent r0 r1 r2 r) (offdiagEvent r0 r1 r2 (withShown o d r)) := by
  unfold offdiagEvent offDiagnosis
  cases diagFieldsOfCodes r0 r1 r2 with
  | none => rfl
  | some f =>
    dsimp only
    rcases r with ⟨_ | _ | _ | _, _⟩ <;> cases globalFail f <;> rfl

theorem diagolEvent_alike (cfg : Cfg) (a : Bool) :
    AlikeButShown (diagolEvent cfg a r) (diagolEvent cfg a (withShown o d r)) := by
  unfold diagolEvent
  rcases r with ⟨_ | _ | _ | _, _⟩ <;> cases a && cfg.openLoadFatal <;> rfl

theorem monEvent_alike (chn : BitVec 3) (kind : Bool) :
    AlikeButShown (monEvent chn kind r) (monEvent chn kind (withShown o d r)) := by
  dsimp only [monEvent, withShown]
  cases channelOfCode chn with
  | none => rfl
  | some c =>
    dsimp only
    split_ifs <;> rfl

theorem setintEvent_alike (chn : BitVec 3) (which : BitVec 2) :
    AlikeButShown (setintEvent chn which r) (setintEvent chn which (withShown o d r)) := by
  have hset := setInterrupt_alike o d r Resp.ok chn which
  unfold setintEvent
  cases channelOfCode chn with
  | none => rfl
  | some _ => exact hset

end

/-- Settles O50: each meaning's result is alike but for the two registers, and the rest of the state is made of it. -/
theorem statusOnlyRegistersReadByNoRule : Obligations.StatusOnlyRegistersReadByNoRule := by
  intro i s t o d h
  cases i <;> cases h <;> refine ⟨_, rfl, ?_⟩
  case init => rfl
  case start => exact congrArg s.answer (startEvent_alike o d s.regs s.cfg)
  case stop => exact congrArg s.answer (stopEvent_alike o d s.regs)
  case setref => rfl
  case tick => exact congrArg s.answer (tickEvent_alike o d s.regs s.cfg)
  case hall ts pat => exact congrArg s.answer (hallEvent_alike o d s.regs s.cfg ts pat)
  case offdiag r0 r1 r2 => exact congrArg s.answer (offdiagEvent_alike o d s.regs r0 r1 r2)
  case diagol a => exact congrArg s.answer (diagolEvent_alike o d s.regs s.cfg a)
  case mon chn kind => exact congrArg s.answer (monEvent_alike o d s.regs chn kind)
  case clrsts => rfl
  case setint chn which => exact congrArg s.answer (setintEvent_alike o d s.regs chn which)
  case bSetbridge img => exact congrArg s.returned (setBridge_alike o d s.regs .noValue img)
  case bSetch chn cfgv => exact congrArg s.returned (setChannel_alike o d s.regs .noValue chn cfgv)
  case bClrsts => rfl
  case bSetint chn which => exact congrArg s.returned (setInterrupt_alike o d s.regs BopReturn.noValue chn which)
  case bDiagol => rfl
  case bOffdiag r0 r1 r2 => exact congrArg s.returned (offDiagnosis_alike o d s.regs r0 r1 r2)

end Sys2Proof.Machine

/-! ## Memory (20_memory.md): the bytes of a transport, and the step at a pending word -/

namespace Sys2Proof.Machine

open Sys2Proof

/-! ### Words as bytes (R62, R63) -/

/-- R62: the number of four joined bytes, the first byte least significant. -/
theorem joinedBytes_toNat (b0 b1 b2 b3 : BitVec 8) :
    BitVec.toNat (w := 32) (b3 ++ b2 ++ b1 ++ b0) =
      b0.toNat + b1.toNat * 2 ^ 8 + b2.toNat * 2 ^ 16 + b3.toNat * 2 ^ 24 := by
  refine (toNat_append_eq _ _).trans ?_
  simp only [toNat_append_eq]
  omega

/-- R62, R63: bytes that carry a word are its four bytes, the least significant first, and the bytes after it. -/
theorem wordOfBytes_inv {bs rest : List (BitVec 8)} {w : Word} (h : wordOfBytes bs = some (w, rest)) :
    ∃ b0 b1 b2 b3, bs = b0 :: b1 :: b2 :: b3 :: rest ∧
      w.toNat = b0.toNat + b1.toNat * 2 ^ 8 + b2.toNat * 2 ^ 16 + b3.toNat * 2 ^ 24 := by
  match bs, h with
  | b0 :: b1 :: b2 :: b3 :: _, rfl => exact ⟨b0, b1, b2, b3, rfl, joinedBytes_toNat b0 b1 b2 b3⟩

/-- R62: the bytes that a word is cut into join to the word. -/
theorem wordOfBytes_wordBytes_append (w : Word) (rest : List (BitVec 8)) :
    wordOfBytes (wordBytes w ++ rest) = some (w, rest) := by
  have hjoin : field w 24 8 ++ field w 16 8 ++ field w 8 8 ++ field w 0 8 = w := by
    refine BitVec.eq_of_toNat_eq ((joinedBytes_toNat _ _ _ _).trans ?_)
    have := w.isLt
    simp only [field_toNat]
    omega
  exact congrArg (fun v => some (v, rest)) hjoin

/-- R62: the first byte is the word's least significant one. -/
theorem mod_256_of_wordOfBytes {b : BitVec 8} {bs rest : List (BitVec 8)} {w : Word}
    (h : wordOfBytes (b :: bs) = some (w, rest)) : w.toNat % 256 = b.toNat := by
  obtain ⟨b0, b1, b2, b3, hbs, hw⟩ := wordOfBytes_inv h
  obtain ⟨rfl, -⟩ := List.cons.inj hbs
  omega

/-- R63: fewer than four bytes are no word. -/
theorem wordOfBytes_of_length_lt {bs : List (BitVec 8)} (h : bs.length < 4) : wordOfBytes bs = none := by
  refine Option.eq_none_iff_forall_ne_some.mpr fun ⟨w, rest⟩ hw => ?_
  obtain ⟨b0, b1, b2, b3, rfl, -⟩ := wordOfBytes_inv hw
  simp only [List.length_cons] at h
  omega

/-- Settles O6: the joined word as the sum of its bytes at their places. -/
theorem transportBytesLittleEndian : Obligations.TransportBytesLittleEndian :=
  ⟨wordOfBytes_wordBytes_append, fun _ _ _ _ => mod_256_of_wordOfBytes, fun _ => wordOfBytes_of_length_lt⟩

/-! ### The step at a pending word (R66) -/

/-- R66: a word taken that decodes is followed by its instruction's meaning. -/
theorem takeWord_of_decode {f : PortWord} {i : Instr} (h : decode f = .ok i) (s : State) : takeWord f s = exec i s := by
  rw [takeWord, followed_of_decode h]

/-- Settles O8: the step takes the first pending word, and a word that decodes names the rule that is followed. -/
theorem stepRunsDecodedInstruction : Obligations.StepRunsDecodedInstruction := by
  intro s f rest i hpend hdec
  exact (step_cons hpend).trans (takeWord_of_decode hdec (s.taken rest))

end Sys2Proof.Machine

/-! ## Encoding (30_encoding.md): the two round trips, the reserved words, the packed image -/

namespace Sys2Proof.Machine

open Sys2Proof Sys2Proof.Safety Sys2Proof.Laws

/-! ### The row of an encoded word (R81, R84) -/

/-- R81, R84: the word of every instruction is a word of its row of the table. -/
theorem encodeWord_row (i : Instr) : TableRow.Statement i := by
  cases i with
  | init => exact TableRow.init
  | start => exact TableRow.start
  | stop => exact TableRow.stop
  | setref imm16 => exact TableRow.setref imm16
  | tick => exact TableRow.tick
  | hall ts pat => exact TableRow.hall ts pat
  | offdiag r0 r1 r2 => exact TableRow.offdiag r0 r1 r2
  | diagol o => exact TableRow.diagol o
  | mon chn kind => exact TableRow.mon chn kind
  | clrsts bits => exact TableRow.clrsts bits
  | setint chn which => exact TableRow.setint chn which
  | bSetbridge img => exact TableRow.bSetbridge img
  | bSetch chn cfgv => exact TableRow.bSetch chn cfgv
  | bClrsts bits => exact TableRow.bClrsts bits
  | bSetint chn which => exact TableRow.bSetint chn which
  | bDiagol o => exact TableRow.bDiagol o
  | bOffdiag r0 r1 r2 => exact TableRow.bOffdiag r0 r1 r2

/-- R80: the operands lie below the opcode. -/
theorem row_le (i : Instr) : (TableRow.row i).2 ≤ 28 := by cases i <;> simp [TableRow.row]

/-- R80: the 28 payload bits are the operands and the must-be-zero bits above them. -/
theorem two_pow_row_mul (i : Instr) : 2 ^ (TableRow.row i).2 * 2 ^ (28 - (TableRow.row i).2) = 2 ^ 28 := by
  rw [← pow_add, Nat.add_sub_of_le (row_le i)]

theorem opcode_encodeWord (i : Instr) : (encodeWord i).toNat / 2 ^ 28 = (TableRow.row i).1 := by
  have hrow : (encodeWord i).toNat / 2 ^ (TableRow.row i).2 = _ := encodeWord_row i
  rw [← two_pow_row_mul i, ← Nat.div_div_eq_div_mul, hrow, Nat.mul_div_cancel _ (by positivity)]

theorem mustBeZero_encodeWord (i : Instr) :
    (encodeWord i).toNat / 2 ^ (TableRow.row i).2 % 2 ^ (28 - (TableRow.row i).2) = 0 := by
  have hrow : (encodeWord i).toNat / 2 ^ (TableRow.row i).2 = _ := encodeWord_row i
  rw [hrow, Nat.mul_mod_left]

/-! ### The row the decoder takes (R81, R84) -/

/-- R80: the opcode is the top four bits. -/
theorem opcode_toNat (w : Word) : (field w 28 4).toNat = w.toNat / 2 ^ 28 := by
  have := w.isLt
  rw [field_toNat]
  omega

theorem field_eq {w : Word} {lo n : Nat} {x : BitVec n} (h : w.toNat / 2 ^ lo % 2 ^ n = x.toNat) : field w lo n = x :=
  BitVec.eq_of_toNat_eq ((field_toNat w lo n).trans h)

theorem getLsbD_eq {w : Word} {j : Nat} {b : Bool} (h : w.toNat / 2 ^ j % 2 = b.toNat % 2) : w.getLsbD j = b := by
  rw [← getLsbD_toNat] at h
  cases b <;> simpa using h

/-- R81, R82, R84: the decoder reads from an encoded word the operands that it was made of, and then makes the checks of
its row. -/
theorem decode_encode (i : Instr) : decode (encode i) = payload (encodeWord i) (TableRow.row i).2 i := by
  have hop := opcode_encodeWord i
  have hw := encodeWord_toNat i
  cases i <;> simp only [decode, encode, Instr.port, decodeEvt, decodeBop, opcode_toNat, hop, TableRow.row]
  all_goals
    simp only [wordNumber] at hw
    congr
  case diagol.e_i | mon.e_i.e_kind | bDiagol.e_i => exact getLsbD_eq (by omega)
  all_goals exact field_eq (by omega)

/-- R81, R84: an opcode is in no row of its port's format, or the checks are those of the row it names, whose operands
are the low bits of the word. -/
theorem decode_cases (f : PortWord) :
    decode f = .error .reservedOpcode ∨
    ∃ (lo : Nat) (i : Instr), decode f = payload f.word lo i ∧ lo = (TableRow.row i).2 ∧ i.port = f.port ∧
      wordNumber i = f.word.toNat / 2 ^ 28 * 2 ^ 28 + f.word.toNat % 2 ^ (TableRow.row i).2 := by
  obtain ⟨p, w⟩ := f
  cases p <;> simp only [decode, decodeEvt, decodeBop, opcode_toNat] <;> split
  any_goals exact .inl rfl
  all_goals
    refine .inr ⟨_, _, rfl, rfl, rfl, ?_⟩
    simp only [wordNumber, TableRow.row, field_toNat, getLsbD_toNat]
    omega

/-! ### The round trips -/

/-- Settles O1: the decoder takes the row of the encoded word, whose must-be-zero bits are zero. -/
theorem decodeInvertsEncode : Obligations.DecodeInvertsEncode :=
  fun i hi => (decode_encode i).trans (payload_eq_ok (mustBeZero_encodeWord i) hi)

/-- A word whose must-be-zero bits are zero is its opcode and its operands. -/
theorem opcode_add_operands {n : Nat} (i : Instr)
    (hz : n / 2 ^ (TableRow.row i).2 % 2 ^ (28 - (TableRow.row i).2) = 0) :
    n / 2 ^ 28 * 2 ^ 28 + n % 2 ^ (TableRow.row i).2 = n := by
  have hlow : n % 2 ^ 28 = n % 2 ^ (TableRow.row i).2 := by
    rw [← two_pow_row_mul i, Nat.mod_mul, hz, Nat.mul_zero, Nat.add_zero]
  rw [← hlow, Nat.div_add_mod']

/-- Settles O2: the checks of the row let through only zeros above the operands, so that the word is its opcode and its
operands, of which the encoder makes it again. -/
theorem encodeInvertsDecode : Obligations.EncodeInvertsDecode := by
  intro f i h
  obtain hop | ⟨_, j, hj, rfl, hport, hnum⟩ := decode_cases f
  · cases hop.symm.trans h
  · obtain ⟨rfl, hwf, hz⟩ := payload_ok (hj.symm.trans h)
    have hword : encodeWord i = f.word :=
      BitVec.eq_of_toNat_eq (by rw [encodeWord_toNat, hnum, opcode_add_operands i hz])
    exact ⟨by rw [encode, hport, hword], hwf⟩

/-- Settles O3: the eight fixed words, decoded. -/
theorem specWordsDecode : Obligations.SpecWordsDecode := by
  unfold Obligations.SpecWordsDecode
  decide

/-! ### Reserved values (R83, R84): the rule of an instruction that is not well formed writes nothing -/

theorem diagCodes_not_valid_iff {r0 r1 r2 : BitVec 2} :
    (validDiagCode r0 && validDiagCode r1 && validDiagCode r2) = false ↔
      r0.toNat = 3 ∨ r1.toNat = 3 ∨ r2.toNat = 3 := by
  simp only [Bool.and_eq_false_iff, validDiagCode_false_iff, or_assoc]

theorem channelOfCode_of_not_valid {c : BitVec 3} (h : validChannelCode c = false) : channelOfCode c = none := by
  have := (validChannelCode_false_iff c).mp h
  obtain ⟨-, e⟩ | ⟨hc, -⟩ := channelOfCode_cases c
  · exact e
  · omega

theorem configOfCode_of_not_valid {v : BitVec 3} (h : validConfigCode v = false) : configOfCode v = none := by
  have := (validConfigCode_false_iff v).mp h
  obtain ⟨-, e⟩ | ⟨hv, -⟩ := configOfCode_cases v
  · exact e
  · omega

theorem unpackImage_of_not_valid {img : BitVec 18} (h : validImage img = false) : unpackImage img = none := by
  obtain ⟨-, e⟩ | ⟨g, -, hg⟩ := unpackImage_cases img
  · exact e
  · have hv : ∀ i : Fin 6, validConfigCode (imgField img i.val) = true := fun i => by
      rw [← hg i]
      exact decide_eq_true (configCode_le (g.get i))
    have hv' : validImage img = true := by
      simp only [validImage, Bool.and_eq_true]
      exact ⟨⟨⟨⟨⟨hv 0, hv 1⟩, hv 2⟩, hv 3⟩, hv 4⟩, hv 5⟩
    cases h.symm.trans hv'

theorem diagFieldsOfCodes_of_not_valid {r0 r1 r2 : BitVec 2}
    (h : (validDiagCode r0 && validDiagCode r1 && validDiagCode r2) = false) : diagFieldsOfCodes r0 r1 r2 = none := by
  obtain ⟨-, e⟩ | ⟨hr, -⟩ := diagFieldsOfCodes_cases r0 r1 r2
  · exact e
  · exact absurd (by simpa [← BitVec.toNat_inj] using diagCodes_not_valid_iff.mp h) hr

theorem setChannel_of_not_valid {chn cfgv : BitVec 3} (h : (validChannelCode chn && validConfigCode cfgv) = false)
    (r : Regs) : setChannel chn cfgv r = r := by
  unfold setChannel
  obtain hc | hv := Bool.and_eq_false_iff.mp h
  · rw [channelOfCode_of_not_valid hc]
  · rw [configOfCode_of_not_valid hv]
    cases channelOfCode chn <;> rfl

/-- R83 (c), (d): an event with a reserved value answers ERR_RESERVED. -/
theorem exec_event_of_not_wellFormed {i : Instr} (hp : i.port = .evt) (hw : i.wellFormed = false) (s : State) :
    exec i s = .next (s.answer (s.regs, .errReserved)) := by
  cases i with
  | offdiag r0 r1 r2 => simp only [exec, execOffdiag, offdiagEvent, diagFieldsOfCodes_of_not_valid hw]
  | mon chn kind => simp only [exec, execMon, monEvent, channelOfCode_of_not_valid hw]
  | setint chn which => simp only [exec, execSetint, setintEvent, channelOfCode_of_not_valid hw]
  | init | start | stop | setref _ | tick | hall _ _ | diagol _ | clrsts _ => cases hw
  | bSetbridge _ | bSetch _ _ | bClrsts _ | bSetint _ _ | bDiagol _ | bOffdiag _ _ _ => cases hp

/-- R84: a BDRV operation with a reserved value writes no register. -/
theorem exec_operation_of_not_wellFormed {i : Instr} (hp : i.port = .bop) (hw : i.wellFormed = false) (s : State) :
    ∃ ret, exec i s = .next (s.returned (s.regs, ret)) := by
  cases i with
  | bSetbridge img => exact ⟨.noValue, by simp only [exec, execBSetbridge, setBridge, unpackImage_of_not_valid hw]⟩
  | bSetch chn cfgv => exact ⟨.noValue, by simp only [exec, execBSetch, setChannel_of_not_valid hw]⟩
  | bSetint chn which =>
    exact ⟨.noValue, by simp only [exec, execBSetint, setInterrupt, channelOfCode_of_not_valid hw]⟩
  | bOffdiag r0 r1 r2 =>
    exact ⟨.invalid, by simp only [exec, execBOffdiag, offDiagnosis, diagFieldsOfCodes_of_not_valid hw]⟩
  | bClrsts _ | bDiagol _ => cases hw
  | init | start | stop | setref _ | tick | hall _ _ | offdiag _ _ _ | diagol _ | mon _ _ | clrsts _ | setint _ _ =>
    cases hp

/-! ### Reserved words (R83, R84) -/

/-- A word that does not decode names no rule, or that of an instruction of its port with a reserved value. -/
theorem followed_of_not_decode {f : PortWord} (h : ∀ i, decode f ≠ .ok i) :
    followed f = none ∨ ∃ i, followed f = some i ∧ i.port = f.port ∧ i.wellFormed = false := by
  unfold followed
  obtain hop | ⟨lo, i, hi, -, hport, -⟩ := decode_cases f
  · exact .inl (by rw [hop])
  · obtain ⟨-, e⟩ | ⟨-, hwf, e⟩ | ⟨-, -, e⟩ := payload_cases f.word lo i
    · exact .inl (by rw [hi, e])
    · exact .inr ⟨i, by rw [hi, e], hport, hwf⟩
    · exact absurd (hi.trans e) (h i)

/-- R83: a word of the event port that does not decode answers ERR_RESERVED and writes no register. -/
theorem takeWord_evt_of_not_decode {w : Word} (h : ∀ i, decode ⟨.evt, w⟩ ≠ .ok i) (s : State) :
    takeWord ⟨.evt, w⟩ s = .next (s.answer (s.regs, .errReserved)) := by
  obtain hf | ⟨i, hf, hport, hwf⟩ := followed_of_not_decode h
  · rw [takeWord, hf]
    rfl
  · rw [takeWord, hf]
    exact exec_event_of_not_wellFormed hport hwf s

/-- R84: a word of the BOP port that does not decode writes no register. -/
theorem takeWord_bop_of_not_decode {w : Word} (h : ∀ i, decode ⟨.bop, w⟩ ≠ .ok i) (s : State) :
    ∃ ret, takeWord ⟨.bop, w⟩ s = .next (s.returned (s.regs, ret)) := by
  obtain hf | ⟨i, hf, hport, hwf⟩ := followed_of_not_decode h
  · rw [takeWord, hf]
    exact ⟨.noValue, rfl⟩
  · rw [takeWord, hf]
    exact exec_operation_of_not_wellFormed hport hwf s

/-- The must-be-zero check and the value check, as the reserved words of R83 name them. -/
theorem payload_refuses_iff (w : Word) {lo : Nat} (hlo : lo ≤ 28) (i : Instr) :
    (∀ j, payload w lo i ≠ .ok j) ↔ payloadBitSet w lo ∨ i.wellFormed = false := by
  have hbits : payloadBitSet w lo ↔ w.toNat / 2 ^ lo % 2 ^ (28 - lo) ≠ 0 := by
    rw [payloadBitSet, ← Nat.add_sub_of_le hlo, pow_add, Nat.mod_mul_right_div_self, Nat.add_sub_of_le hlo]
  rw [hbits]
  obtain ⟨hz, e⟩ | ⟨hz, hw, e⟩ | ⟨hz, hw, e⟩ := payload_cases w lo i
  · simp [e, hz]
  · simp [e, hw]
  · simp [e, hz, hw]

/-- R83: the reserved event words are those that do not decode. -/
theorem reservedEvent_iff (w : Word) : ReservedEvent w ↔ ∀ i, decode ⟨.evt, w⟩ ≠ .ok i := by
  unfold ReservedEvent
  split <;> simp only [decode, decodeEvt, opcode_toNat, *]
  case h_12 => simp
  all_goals
    rw [payload_refuses_iff w (by decide)]
    simp [Instr.wellFormed, diagCodes_not_valid_iff, validChannelCode_false_iff, field_toNat, -Bool.and_eq_false_imp]

/-- Settles O4: a reserved word does not decode, and a word that does not decode is refused by the step or by its
event's own rule. -/
theorem reservedEventWordsRefused : Obligations.ReservedEventWordsRefused := by
  intro s w rest hp
  refine ⟨fun h => ?_, fun h => ?_⟩
  · exact (step_cons hp).trans (takeWord_evt_of_not_decode ((reservedEvent_iff w).mp h) _)
  · rw [reservedEvent_iff] at h
    push Not at h
    exact h

/-- Settles O5: no operation is run, or one that refuses a reserved value. -/
theorem reservedBopWordsChangeNothing : Obligations.ReservedBopWordsChangeNothing := by
  intro s w rest hp h
  obtain ⟨ret, hret⟩ := takeWord_bop_of_not_decode h (s.taken rest)
  exact ⟨ret, (step_cons hp).trans hret⟩

/-! ### The packed image (R92) -/

/-- Settles O7: the packed image as a number, the two named images, and the fields read back. -/
theorem packedImageIsSumOfCodes : Obligations.PackedImageIsSumOfCodes :=
  ⟨packImage_toNat, by decide, by decide, unpackImage_packImage⟩

end Sys2Proof.Machine

/-! ## Hall decoder (40_hall_decoder.md): the sample HALL takes, and the sector -/

namespace Sys2Proof.Machine

open Sys2Proof Sys2Proof.Safety

/-! ### The class of a sample and the decoder's writes (R112, R113) -/

/-- R112: the accepted classes are those of a first sample and of a step of one sector. -/
theorem classify_accepted_iff (sec : Sector) (r : Regs) : (classify sec r).accepted = true ↔ acceptedSample sec r := by
  unfold acceptedSample
  obtain ⟨hv, hc⟩ | ⟨hv, rfl, hc⟩ | ⟨hv, hs, hc⟩ | ⟨hv, hs, hc⟩ | ⟨hv, -, hf, hb, hc⟩ := classify_cases sec r
  · simp [hc, hv, SampleClass.accepted]
  · have hf : r.sector.val ≠ (r.sector.val + 1) % 6 := by omega
    have hb : r.sector.val ≠ (r.sector.val + 5) % 6 := by omega
    simp [hc, hv, hf, hb, SampleClass.accepted]
  · simp [hc, hs, SampleClass.accepted]
  · simp [hc, hs, SampleClass.accepted]
  · simp [hc, hv, hf, hb, SampleClass.accepted]

/-- R113: the decoder writes of the class `classify` answers are those the rule lists for the sample. -/
theorem hallWrites_classify (sec : Sector) (ts : BitVec 24) (r : Regs) :
    HallWrites sec ts r (hallDecoderWrites (classify sec r) sec ts r) := by
  unfold HallWrites
  obtain ⟨hv, hc⟩ | ⟨hv, rfl, hc⟩ | ⟨hv, hs, hc⟩ | ⟨hv, hs, hc⟩ | ⟨hv, -, hf, hb, hc⟩ := classify_cases sec r
  · simp [hc, hv, hallDecoderWrites]
  · have hf : r.sector.val ≠ (r.sector.val + 1) % 6 := by omega
    have hb : r.sector.val ≠ (r.sector.val + 5) % 6 := by omega
    simp [hc, hv, hf, hb, hallDecoderWrites]
  · have hb : (r.sector.val + 1) % 6 ≠ (r.sector.val + 5) % 6 := by omega
    simp [hc, hv, hs, hb, hallDecoderWrites, hallStep]
  · have hf : (r.sector.val + 5) % 6 ≠ (r.sector.val + 1) % 6 := by omega
    simp [hc, hv, hs, hf, hallDecoderWrites, hallStep]
  · simp [hc, hv, hf, hb, hallDecoderWrites]

/-! ### HALL by `mstate` and pattern (R113) -/

theorem exec_hall (ts : BitVec 24) (pat : BitVec 3) (s : State) :
    exec (.hall ts pat) s = .next (s.answer (hallEvent s.cfg ts pat s.regs)) := rfl

/-- A powered bridge is not unpowered. -/
theorem not_unpowered_of_powered {r : Regs} (h : powered r) : ¬ unpowered r := by
  unfold powered at h
  unfold unpowered
  rcases h with h | h <;> simp [h]

theorem hallEvent_of_unpowered (cfg : Cfg) (ts : BitVec 24) (pat : BitVec 3) {r : Regs} (h : unpowered r) :
    hallEvent cfg ts pat r = (r, .errState) := if_pos h

theorem hallEvent_of_invalidPattern (cfg : Cfg) (ts : BitVec 24) {pat : BitVec 3} {r : Regs} (h : powered r)
    (hp : invalidPattern pat) :
    hallEvent cfg ts pat r = ({ r with ch := allOff, mstate := .fault, fault_kind := .sensorFault }, .ok) := by
  obtain ⟨hm, -⟩ | ⟨-, -, he⟩ | ⟨-, hp', -⟩ := hallEvent_cases cfg ts pat r
  · exact absurd hm (not_unpowered_of_powered h)
  · exact he
  · exact absurd hp hp'

theorem hallEvent_of_validPattern (cfg : Cfg) (ts : BitVec 24) {pat : BitVec 3} {k : Fin 6} {r : Regs} (h : powered r)
    (hk : pat.toNat = k.val + 1) : hallEvent cfg ts pat r = (hallSample cfg (cfg.HALL_MAP.get k) ts r, .ok) := by
  obtain ⟨hm, -⟩ | ⟨-, hp, -⟩ | ⟨-, -, j, hj, he⟩ := hallEvent_cases cfg ts pat r
  · exact absurd hm (not_unpowered_of_powered h)
  · have hn : pat.toNat = 0 ∨ pat.toNat = 7 := hp.imp (congrArg BitVec.toNat) (congrArg BitVec.toNat)
    omega
  · obtain rfl : j = k := Fin.ext (by omega)
    exact he

/-- Settles O17: HALL by its cases; the registers `w` of a valid sample are those of the decoder writes of its class. -/
theorem hallTakesSample : Obligations.HallTakesSample := by
  intro s ts pat
  refine ⟨fun hm => ?_, fun ⟨hm, hp⟩ => ?_, fun k hk => ⟨_, hallWrites_classify _ ts s.regs, ?_, ?_, ?_⟩⟩
  · rw [exec_hall, hallEvent_of_unpowered s.cfg ts pat hm, State.answer_same]
  · rw [exec_hall, hallEvent_of_invalidPattern s.cfg ts hm hp]
    rfl
  · intro hm
    rw [exec_hall, hallEvent_of_validPattern s.cfg ts (.inl hm) hk, hallSample_starting s.cfg _ ts hm]
    rfl
  · intro ⟨hm, ha⟩
    rw [exec_hall, hallEvent_of_validPattern s.cfg ts (.inr hm) hk, hallSample_running s.cfg _ ts hm,
      if_pos ((classify_accepted_iff _ _).mpr ha)]
    rfl
  · intro ⟨hm, ha⟩
    rw [exec_hall, hallEvent_of_validPattern s.cfg ts (.inr hm) hk, hallSample_running s.cfg _ ts hm,
      if_neg (mt (classify_accepted_iff _ _).mp ha), State.answer_same]

/-! ### The sector (R114) -/

/-- The registers of the Hall decoder after a valid sample are those its own writes leave: neither the entry into Running
nor the commit touches them. -/
theorem hallSample_decoderRegs (cfg : Cfg) (sec : Sector) (ts : BitVec 24) {r : Regs} (h : powered r) :
    ∃ w, HallWrites sec ts r w ∧ (hallSample cfg sec ts r).sector = w.sector ∧
      (hallSample cfg sec ts r).sector_valid = w.sector_valid ∧ (hallSample cfg sec ts r).dir_obs = w.dir_obs := by
  refine ⟨_, hallWrites_classify sec ts r, ?_⟩
  rcases h with hm | hm
  · rw [hallSample_starting cfg sec ts hm]
    exact ⟨rfl, rfl, rfl⟩
  · rw [hallSample_running cfg sec ts hm]
    cases classify sec r <;> exact ⟨rfl, rfl, rfl⟩

/-- What the decoder writes of a sample do to the sector: nothing, a first sector, a step forward, or a step back. -/
theorem hallWrites_sector_cases {sec : Sector} {ts : BitVec 24} {r w : Regs} (h : HallWrites sec ts r w) :
    w.sector = r.sector ∨ (r.sector_valid = false ∧ w.sector_valid = true) ∨
    (w.sector.val = (r.sector.val + 1) % 6 ∧ w.dir_obs = .forward) ∨
    (w.sector.val = (r.sector.val + 5) % 6 ∧ w.dir_obs = .reverse) := by
  obtain ⟨hfirst, hfwd, hrev, hnone⟩ := h
  cases hv : r.sector_valid with
  | false => exact .inr (.inl ⟨rfl, by rw [hfirst hv]⟩)
  | true =>
    by_cases hf : sec.val = (r.sector.val + 1) % 6
    · exact .inr (.inr (.inl (by rw [hfwd ⟨hv, hf⟩]; exact ⟨hf, rfl⟩)))
    by_cases hb : sec.val = (r.sector.val + 5) % 6
    · exact .inr (.inr (.inr (by rw [hrev ⟨hv, hb⟩]; exact ⟨hb, rfl⟩)))
    · exact .inl (by rw [hnone ⟨hv, hf, hb⟩])

/-- A sample that is not accepted makes no decoder write. -/
theorem eq_of_hallWrites_of_not_accepted {sec : Sector} {ts : BitVec 24} {r w : Regs} (h : HallWrites sec ts r w)
    (ha : ¬ acceptedSample sec r) : w = r := by
  obtain ⟨-, -, -, hnone⟩ := h
  unfold acceptedSample at ha
  push Not at ha
  obtain ⟨hv, hf, hb⟩ := ha
  exact hnone ⟨Bool.eq_true_of_not_eq_false hv, hf, hb⟩

/-- Only INIT and HALL have a meaning that writes the sector. -/
theorem regsAfter_sector (cfg : Cfg) (r : Regs) {i : Instr} (hinit : i ≠ .init) (hhall : ∀ ts pat, i ≠ .hall ts pat) :
    (regsAfter i cfg r).sector = r.sector := by
  cases i <;> dsimp only [regsAfter]
  case init => exact absurd rfl hinit
  case hall ts pat => exact absurd rfl (hhall ts pat)
  case start =>
    obtain ⟨-, he⟩ | ⟨-, -, he⟩ | ⟨-, -, -, -, he⟩ | ⟨-, -, -, he⟩ := startEvent_cases cfg r <;>
      simp [he, primed]
  case stop => obtain ⟨-, he⟩ | ⟨-, he⟩ := stopEvent_cases r <;> rw [he]
  case setref => rfl
  case tick =>
    obtain ⟨-, he⟩ | ⟨-, -, he⟩ | ⟨-, -, he⟩ | ⟨-, -, he⟩ := tickEvent_cases cfg r <;> rw [he]
  case offdiag r0 r1 r2 =>
    obtain ⟨-, he⟩ | ⟨-, d, -, -, -, ⟨-, he⟩ | ⟨-, -, he⟩ | ⟨-, -, he⟩ | ⟨-, -, he⟩ | ⟨-, he⟩⟩ :=
      offdiagEvent_cases r0 r1 r2 r <;> rw [he]
  case diagol o =>
    obtain ⟨-, he⟩ | ⟨-, -, he⟩ | ⟨-, -, -, he⟩ | ⟨-, he⟩ | ⟨-, he⟩ := diagolEvent_cases cfg o r <;> rw [he]
  case mon chn kind =>
    obtain ⟨-, he⟩ | ⟨-, -, -, he⟩ | ⟨-, -, he⟩ := monEvent_cases chn kind r <;> rw [he]
  case clrsts => rfl
  case setint chn which =>
    obtain ⟨-, he, -⟩ | ⟨-, k, -, he, -⟩ := setintEvent_cases chn which r <;> rw [he]
  case bSetbridge img => obtain he | ⟨g, he⟩ := setBridge_cases img r <;> rw [he]
  case bSetch chn cfgv => obtain he | ⟨c, v, he⟩ := setChannel_cases chn cfgv r <;> rw [he]
  case bClrsts => rfl
  case bSetint chn which => obtain he | ⟨e, he⟩ := setInterrupt_cases chn which r <;> rw [he]
  case bDiagol => rfl
  case bOffdiag r0 r1 r2 => obtain he | ⟨d, he⟩ := offDiagnosis_cases r0 r1 r2 r <;> rw [he]

/-- What HALL does to the sector: nothing, or the sample is valid, the bridge powered, and the sector is a first one or
moves by one step. -/
theorem hallEvent_sector_cases (cfg : Cfg) (ts : BitVec 24) (pat : BitVec 3) (r : Regs) :
    (hallEvent cfg ts pat r).1.sector = r.sector ∨
    (¬ invalidPattern pat ∧ powered r ∧
      ((r.sector_valid = false ∧ (hallEvent cfg ts pat r).1.sector_valid = true) ∨
       ((hallEvent cfg ts pat r).1.sector.val = (r.sector.val + 1) % 6 ∧
         (hallEvent cfg ts pat r).1.dir_obs = .forward) ∨
       ((hallEvent cfg ts pat r).1.sector.val = (r.sector.val + 5) % 6 ∧
         (hallEvent cfg ts pat r).1.dir_obs = .reverse))) := by
  obtain ⟨-, he⟩ | ⟨-, -, he⟩ | ⟨hm, hp, k, -, he⟩ := hallEvent_cases cfg ts pat r
  · exact .inl (by rw [he])
  · exact .inl (by rw [he])
  · obtain ⟨w, hw, hsec, hvalid, hdir⟩ := hallSample_decoderRegs cfg (cfg.HALL_MAP.get k) ts hm
    rw [he]
    dsimp only
    rw [hsec, hvalid, hdir]
    exact (hallWrites_sector_cases hw).imp_right fun h => ⟨hp, hm, h⟩

/-- Settles O18: INIT resets the sector, a HALL sample moves it as the decoder writes say, and no other meaning writes
it; a valid sample's writes are fixed by its class. -/
theorem sectorChangesByOneStep : Obligations.SectorChangesByOneStep := by
  refine ⟨fun i s t h => ?_, fun s ts pat k hm hk => ?_⟩
  · obtain ⟨hregs, -, -⟩ := exec_inv h
    rw [hregs]
    by_cases hinit : i = .init
    · subst hinit
      exact .inr (.inl ⟨rfl, congrArg Regs.sector (initialise_eq s.regs)⟩)
    by_cases hhall : ∃ ts pat, i = .hall ts pat
    · obtain ⟨ts, pat, rfl⟩ := hhall
      exact (hallEvent_sector_cases s.cfg ts pat s.regs).imp_right fun h => .inr ⟨ts, pat, rfl, h⟩
    · push Not at hhall
      exact .inl (regsAfter_sector s.cfg s.regs hinit hhall)
  · obtain ⟨w, hw, hsec, -, hdir⟩ := hallSample_decoderRegs s.cfg (s.cfg.HALL_MAP.get k) ts hm
    refine ⟨_, exec_hall ts pat s, ?_⟩
    rw [hallEvent_of_validPattern s.cfg ts hm hk]
    dsimp only [State.answer]
    rw [hsec, hdir]
    have hnone := eq_of_hallWrites_of_not_accepted hw
    obtain ⟨hfirst, hfwd, hrev, -⟩ := hw
    refine ⟨fun hv => ?_, fun ⟨hv, hs⟩ => ?_, fun ⟨hv, hs⟩ => ?_, fun ha => ?_⟩
    · rw [hfirst hv]
    · rw [hfwd ⟨hv, hs⟩]
      exact ⟨hs, rfl⟩
    · rw [hrev ⟨hv, hs⟩]
      exact ⟨hs, rfl⟩
    · rw [hnone ha]

end Sys2Proof.Machine

/-! ## Commutation (41_commutation.md): the writers of the image, the table's entries and its output function -/

namespace Sys2Proof.Machine

open Sys2Proof Sys2Proof.Safety

/-! ### The writers of the image (R134, R206) -/

/-- R113: no class of sample lets the decoder writes touch `mstate`. -/
@[simp] theorem hallDecoderWrites_mstate (c : SampleClass) (sec : Sector) (ts : BitVec 24) (r : Regs) :
    (hallDecoderWrites c sec ts r).mstate = r.mstate := by
  cases c <;> rfl

/-- R113: no class of sample lets the decoder writes touch `dir_cmd`. -/
@[simp] theorem hallDecoderWrites_dir_cmd (c : SampleClass) (sec : Sector) (ts : BitVec 24) (r : Regs) :
    (hallDecoderWrites c sec ts r).dir_cmd = r.dir_cmd := by
  cases c <;> rfl

/-- R134: a valid sample leaves the image alone, or commits the entry of the new sector and ends in Running. -/
theorem hallSample_ch_cases (cfg : Cfg) (sec : Sector) (ts : BitVec 24) {r t : Regs} (hm : powered r)
    (ht : hallSample cfg sec ts r = t) :
    t.ch = r.ch ∨ (t.ch = commEntry cfg t.sector t.dir_cmd ∧ t.mstate = .running) := by
  subst ht
  rcases hm with hm | hm
  · rw [hallSample_starting cfg sec ts hm]
    exact .inr ⟨by simp, rfl⟩
  · rw [hallSample_running cfg sec ts hm]
    by_cases ha : (classify sec r).accepted = true
    exacts [.inr (by simp [ha, hm]), .inl (by simp [ha])]

/-- HALL leaves the image alone, faults with every channel Off, or commits an entry and ends in Running (R113, R134). -/
theorem hallEvent_ch_cases (cfg : Cfg) (ts : BitVec 24) (pat : BitVec 3) {r t : Regs}
    (ht : (hallEvent cfg ts pat r).1 = t) :
    t.ch = r.ch ∨ (t.ch = allOff ∧ unpowered t) ∨
      (t.ch = commEntry cfg t.sector t.dir_cmd ∧ t.mstate = .running) := by
  subst ht
  obtain ⟨-, he⟩ | ⟨-, -, he⟩ | ⟨hm, -, k, -, he⟩ := hallEvent_cases cfg ts pat r <;> rw [he]
  · exact .inl rfl
  · exact .inr (.inl ⟨rfl, .inr rfl⟩)
  · exact (hallSample_ch_cases cfg _ ts hm rfl).imp_right .inr

/-- START leaves the image alone, faults with every channel Off, or enables every channel and ends in Starting (R202). -/
theorem startEvent_ch_cases (cfg : Cfg) {r t : Regs} (ht : (startEvent cfg r).1 = t) :
    t.ch = r.ch ∨ (t.ch = allOff ∧ unpowered t) ∨ (t.ch = allEn ∧ t.mstate = .starting) := by
  subst ht
  obtain ⟨-, he⟩ | ⟨-, -, he⟩ | ⟨-, -, -, -, he⟩ | ⟨-, -, -, he⟩ := startEvent_cases cfg r <;> rw [he]
  · exact .inl rfl
  · exact .inr (.inl (by simp [unpowered]))
  · exact .inr (.inl (by simp [unpowered]))
  · exact .inr (.inr ⟨rfl, rfl⟩)

/-- R206: every event but START and HALL leaves the image alone, or switches every channel Off and ends in Off or Fault. -/
theorem regsAfter_ch_cases (cfg : Cfg) {r t : Regs} {i : Instr} (hi : i.port = .evt) (hstart : i ≠ .start)
    (hhall : ∀ ts pat, i ≠ .hall ts pat) (ht : regsAfter i cfg r = t) :
    t.ch = r.ch ∨ (t.ch = allOff ∧ unpowered t) := by
  subst ht
  cases i <;> dsimp only [regsAfter]
  case start => exact absurd rfl hstart
  case hall ts pat => exact absurd rfl (hhall ts pat)
  case init =>
    rw [initEvent, initialise_eq]
    exact .inr ⟨rfl, .inl rfl⟩
  case stop =>
    obtain ⟨-, he⟩ | ⟨-, he⟩ := stopEvent_cases r <;> rw [he]
    exacts [.inr ⟨rfl, .inl rfl⟩, .inl rfl]
  case setref => exact .inl rfl
  case tick =>
    obtain ⟨-, he⟩ | ⟨-, -, he⟩ | ⟨-, -, he⟩ | ⟨-, -, he⟩ := tickEvent_cases cfg r <;> rw [he]
    exacts [.inl rfl, .inr ⟨rfl, .inr rfl⟩, .inl rfl, .inl rfl]
  case offdiag r0 r1 r2 =>
    obtain ⟨-, he⟩ | ⟨-, d, -, -, -, ⟨-, he⟩ | ⟨-, -, he⟩ | ⟨-, -, he⟩ | ⟨-, -, he⟩ | ⟨-, he⟩⟩ :=
      offdiagEvent_cases r0 r1 r2 r <;> rw [he]
    exacts [.inl rfl, .inl rfl, .inl rfl, .inl rfl, .inr ⟨rfl, .inr rfl⟩, .inl rfl]
  case diagol o =>
    obtain ⟨-, he⟩ | ⟨-, -, he⟩ | ⟨-, -, -, he⟩ | ⟨-, he⟩ | ⟨-, he⟩ := diagolEvent_cases cfg o r <;> rw [he]
    exacts [.inl rfl, .inl rfl, .inr ⟨rfl, .inr rfl⟩, .inl rfl, .inl rfl]
  case mon chn kind =>
    obtain ⟨-, he⟩ | ⟨-, -, -, he⟩ | ⟨-, -, he⟩ := monEvent_cases chn kind r <;> rw [he]
    exacts [.inl rfl, .inr ⟨rfl, .inr rfl⟩, .inl rfl]
  case clrsts => exact .inl rfl
  case setint chn which =>
    obtain ⟨-, he, -⟩ | ⟨-, k, -, he, -⟩ := setintEvent_cases chn which r <;> rw [he] <;> exact .inl rfl
  case bSetbridge | bSetch | bClrsts | bSetint | bDiagol | bOffdiag => cases hi

/-- Settles O16: START alone enables every channel, HALL alone commits an entry, and every other event that writes the
image switches every channel Off. -/
theorem imageChangesOnlyThroughGate : Obligations.ImageChangesOnlyThroughGate := by
  intro i s t hi h
  obtain ⟨hregs, -, -⟩ := exec_inv h
  by_cases hstart : i = .start
  · subst hstart
    obtain hch | hoff | ⟨hch, hm⟩ := startEvent_ch_cases s.cfg hregs.symm
    exacts [.inl hch, .inr (.inl hoff), .inr (.inr (.inl ⟨hch, hm, rfl⟩))]
  by_cases hhall : ∃ ts pat, i = .hall ts pat
  · obtain ⟨ts, pat, rfl⟩ := hhall
    obtain hch | hoff | ⟨hch, hm⟩ := hallEvent_ch_cases s.cfg ts pat hregs.symm
    exacts [.inl hch, .inr (.inl hoff), .inr (.inr (.inr ⟨hch, hm, ts, pat, rfl⟩))]
  · push Not at hhall
    exact (regsAfter_ch_cases s.cfg hi hstart hhall hregs.symm).imp_right .inl

/-! ### The entries of the table (R130, R132) -/

/-- R130: different legs have different high sides. -/
@[simp] theorem highSide_inj {a b : Fin 3} : highSide a = highSide b ↔ a = b := by
  simp [highSide, Fin.ext_iff]

/-- R130: different legs have different low sides. -/
@[simp] theorem lowSide_inj {a b : Fin 3} : lowSide a = lowSide b ↔ a = b := by
  simp [lowSide, Fin.ext_iff]

/-- R130: no channel is both a high and a low side. -/
@[simp] theorem highSide_ne_lowSide (a b : Fin 3) : highSide a ≠ lowSide b :=
  Fin.ne_of_val_ne (by simp only [highSide, lowSide]; omega)

@[simp] theorem lowSide_ne_highSide (a b : Fin 3) : lowSide b ≠ highSide a := (highSide_ne_lowSide a b).symm

/-- R132: every channel of a well-formed entry, over the high side of one leg and the low side of another. -/
theorem get_of_wfEntry {g : Image} (h : wfEntry g) : ∃ a b : Fin 3, ∀ c : Channel,
    g.get c = if c = highSide a then .pwm else if c = lowSide b then .enabled else .off := by
  obtain ⟨a, b, -, hhigh, hlow, hoff⟩ := h
  refine ⟨a, b, fun c => ?_⟩
  split_ifs with ha hb
  · rw [ha, hhigh]
  · rw [hb, hlow]
  · exact hoff c ha hb

/-- R154: where one channel alone is PWM, it is the one the compare register acts on. -/
theorem activePwmChannel_eq_some {g : Image} {c : Channel} (h : ∀ d, g.get d = .pwm ↔ d = c) :
    activePwmChannel g = some c := by
  have hfind : ∀ c : Channel, [(0 : Channel), 1, 2, 3, 4, 5].find? (fun d => decide (d = c)) = some c := by decide
  have hpwm : (fun d => g.get d == .pwm) = fun d => decide (d = c) := by
    funext d
    simp only [← h d, beq_eq_decide]
  rw [activePwmChannel, hpwm, hfind]

/-- Settles O19: over the legs `a` and `b` of the entry, a high side is active only on `a`, a low side only on `b`, and
PWM is the high side of `a` alone. -/
theorem tableEntriesNeverShootThrough : Obligations.TableEntriesNeverShootThrough := by
  intro g hg
  obtain ⟨a, b, hget⟩ := get_of_wfEntry hg
  have hhigh : ∀ l, active (g.get (highSide l)) = true ↔ l = a := fun l => by
    by_cases hl : l = a <;> simp [hget, hl, active]
  have hlow : ∀ l, active (g.get (lowSide l)) = true ↔ l = b := fun l => by
    by_cases hl : l = b <;> simp [hget, hl, active]
  have hpwm : ∀ c, g.get c = .pwm ↔ c = highSide a := fun c => by
    rw [hget]
    split_ifs <;> simp_all
  exact ⟨not_shootThrough_of_wfEntry hg, ⟨a, (hhigh a).mpr rfl, fun l => (hhigh l).mp⟩,
    ⟨b, (hlow b).mpr rfl, fun l => (hlow l).mp⟩, a, activePwmChannel_eq_some hpwm⟩

/-! ### The output function (R133) -/

/-- R133: no sector is established, so the output is all Off. -/
theorem commOut_of_not_valid (cfg : Cfg) {r : Regs} (h : r.sector_valid = false) : commOut cfg r = allOff := by
  simp [commOut, h]

/-- R133: with a sector established the output is its entry. -/
theorem commOut_of_valid (cfg : Cfg) {r : Regs} (h : r.sector_valid = true) :
    commOut cfg r = commEntry cfg r.sector r.dir_cmd := by
  simp [commOut, h]

/-- Settles O52: (b) and (c) of R45 say in which `mstate` a sector is established. -/
theorem tableOutputBeforeFirstSample : Obligations.TableOutputBeforeFirstSample := by
  intro s hs
  refine ⟨fun hm => ?_, fun hm => ?_⟩
  · obtain ⟨hen, hv⟩ := hs.regs_inv.starting_allEnabled hm
    exact ⟨commOut_of_not_valid s.cfg hv, Six.eq_replicate_iff.mpr hen⟩
  · obtain ⟨hv, -⟩ := hs.regs_inv.running_tableEntry hm
    exact commOut_of_valid s.cfg hv

end Sys2Proof.Machine

/-! ## PWM output (42_pwm_output.md): the output stage and the writers of the duty -/

namespace Sys2Proof.Machine

open Sys2Proof Sys2Proof.Safety

/-! ### The output stage (R150) -/

/-- R150, R39: limits in order and within the period leave the clamp to the period nothing to change. -/
theorem outStage_eq_clamp (cfg : Cfg) (d : Int) (hmin : 0 ≤ cfg.speedIMin.toInt)
    (hle : cfg.speedIMin.toInt ≤ cfg.speedIMax.toInt) (hmax : cfg.speedIMax.toInt ≤ cfg.pwmPeriod.toNat) :
    outStage cfg d = clamp d cfg.speedIMin.toInt cfg.speedIMax.toInt := by
  obtain ⟨hnonneg, hperiod⟩ := clamp_mem (x := d) hmin (hmin.trans hle) hmax
  exact clamp_of_mem hnonneg hperiod

/-- Settles O21: the two clamps are the minima and maxima by definition, and the six values are evaluated. -/
theorem outputStageClampsTwice : Obligations.OutputStageClampsTwice := by
  refine ⟨fun cfg d => ?_, by decide⟩
  obtain ⟨hnonneg, hperiod⟩ := outStage_mem cfg d
  exact ⟨rfl, hnonneg, hperiod, duty_toNat cfg d, fun ⟨hmin, hle, hmax⟩ => outStage_eq_clamp cfg d hmin hle hmax⟩

/-! ### The writers of the duty (R151, R153, R155) -/

/-- R113: a valid sample of a powered bridge ends in Running. -/
theorem hallSample_mstate (cfg : Cfg) (sec : Sector) (ts : BitVec 24) {r : Regs} (hm : powered r) :
    (hallSample cfg sec ts r).mstate = .running := by
  rcases hm with hm | hm
  · rw [hallSample_starting cfg sec ts hm]
  · rw [hallSample_running cfg sec ts hm]
    split_ifs <;> simp [hm]

/-- HALL leaves the duty alone, or the sample is valid and the bridge ends in Running (R113, R151). -/
theorem hallEvent_duty_cases (cfg : Cfg) (ts : BitVec 24) (pat : BitVec 3) (r : Regs) :
    (hallEvent cfg ts pat r).1.duty = r.duty ∨ (hallEvent cfg ts pat r).1.mstate = .running := by
  obtain ⟨-, he⟩ | ⟨-, -, he⟩ | ⟨hm, -, k, -, he⟩ := hallEvent_cases cfg ts pat r <;> rw [he]
  exacts [.inl rfl, .inl rfl, .inr (hallSample_mstate cfg _ ts hm)]

/-- TICK leaves the duty alone, or runs the PI step in Running and stays there (R177, R151). -/
theorem tickEvent_duty_cases (cfg : Cfg) (r : Regs) :
    (tickEvent cfg r).1.duty = r.duty ∨ (tickEvent cfg r).1.mstate = .running := by
  obtain ⟨-, he⟩ | ⟨-, -, he⟩ | ⟨-, -, he⟩ | ⟨hm, -, he⟩ := tickEvent_cases cfg r <;> rw [he]
  exacts [.inl rfl, .inl rfl, .inl rfl, .inr hm]

/-- Only INIT, TICK and HALL have a meaning that writes the duty. -/
theorem regsAfter_duty (cfg : Cfg) (r : Regs) {i : Instr} (hinit : i ≠ .init) (htick : i ≠ .tick)
    (hhall : ∀ ts pat, i ≠ .hall ts pat) : (regsAfter i cfg r).duty = r.duty := by
  cases i <;> dsimp only [regsAfter]
  case init => exact absurd rfl hinit
  case tick => exact absurd rfl htick
  case hall ts pat => exact absurd rfl (hhall ts pat)
  case setref | clrsts | bClrsts | bDiagol => rfl
  case start =>
    obtain ⟨-, he⟩ | ⟨-, -, he⟩ | ⟨-, -, -, -, he⟩ | ⟨-, -, -, he⟩ := startEvent_cases cfg r <;>
      simp only [he, enterFault_eq, primed]
  case stop => obtain ⟨-, he⟩ | ⟨-, he⟩ := stopEvent_cases r <;> rw [he]
  case offdiag r0 r1 r2 =>
    obtain ⟨-, he⟩ | ⟨-, d, -, -, -, ⟨-, he⟩ | ⟨-, -, he⟩ | ⟨-, -, he⟩ | ⟨-, -, he⟩ | ⟨-, he⟩⟩ :=
      offdiagEvent_cases r0 r1 r2 r <;> rw [he]
  case diagol o =>
    obtain ⟨-, he⟩ | ⟨-, -, he⟩ | ⟨-, -, -, he⟩ | ⟨-, he⟩ | ⟨-, he⟩ := diagolEvent_cases cfg o r <;> rw [he]
  case mon chn kind =>
    obtain ⟨-, he⟩ | ⟨-, -, -, he⟩ | ⟨-, -, he⟩ := monEvent_cases chn kind r <;> rw [he]
  case setint chn which =>
    obtain ⟨-, he, -⟩ | ⟨-, k, -, he, -⟩ := setintEvent_cases chn which r <;> rw [he]
  case bSetbridge img => obtain he | ⟨g, he⟩ := setBridge_cases img r <;> rw [he]
  case bSetch chn cfgv => obtain he | ⟨c, v, he⟩ := setChannel_cases chn cfgv r <;> rw [he]
  case bSetint chn which => obtain he | ⟨e, he⟩ := setInterrupt_cases chn which r <;> rw [he]
  case bOffdiag r0 r1 r2 => obtain he | ⟨d, he⟩ := offDiagnosis_cases r0 r1 r2 r <;> rw [he]

/-- Settles O22: INIT resets the duty, TICK and HALL write it only on a way that ends in Running, and no other meaning
writes it. -/
theorem dutyWrittenOnlyInRunning : Obligations.DutyWrittenOnlyInRunning := by
  intro i s t h hduty
  obtain ⟨hregs, -, -⟩ := exec_inv h
  rw [hregs] at hduty ⊢
  cases i with
  | init => exact .inr ⟨rfl, congrArg Regs.duty (initialise_eq s.regs)⟩
  | tick => exact .inl ⟨(tickEvent_duty_cases s.cfg s.regs).resolve_left hduty, .inl rfl⟩
  | hall ts pat =>
    exact .inl ⟨(hallEvent_duty_cases s.cfg ts pat s.regs).resolve_left hduty, .inr ⟨ts, pat, rfl⟩⟩
  | _ => exact (hduty (regsAfter_duty s.cfg s.regs nofun nofun nofun)).elim

end Sys2Proof.Machine

/-! ## Speed controller (43_pi_speed.md): SETREF, the speed error, the PI step, and TICK -/

namespace Sys2Proof.Machine

open Sys2Proof Sys2Proof.Safety

/-! ### The PI step (R175, R176, R180) -/

/-- R9, R176: the quotient by 2^q is the floor. -/
theorem floorDivPow2_floor (x : Int) (q : Nat) :
    floorDivPow2 x q * 2 ^ q ≤ x ∧ x < (floorDivPow2 x q + 1) * 2 ^ q :=
  have hpos : (0 : Int) < 2 ^ q := by positivity
  ⟨Int.ediv_mul_le x hpos.ne', Int.lt_ediv_add_one_mul_self x hpos⟩

/-- Settles O25: the two clamps are the minima and maxima by definition, and `raw` is the floor of the quotient. -/
theorem piStepClampsIntegratorAndOutput : Obligations.PiStepClampsIntegratorAndOutput := by
  intro cfg integ e
  obtain ⟨hle, hlt⟩ := floorDivPow2_floor (cfg.speedKp.toNat * e + (piStep cfg integ e).1) cfg.PI_FRAC.val
  exact ⟨_, _, rfl, hle, hlt, rfl⟩

/-- R176, R24: the 48-bit register reads back the new integrator, for its scaled limits are in range. -/
theorem integ_toInt (cfg : Cfg) (integ e : Int) :
    (BitVec.ofInt 48 (piStep cfg integ e).1).toInt = (piStep cfg integ e).1 := by
  obtain ⟨hlo, -⟩ := scaledLimit_range cfg.speedIMin cfg.PI_FRAC
  obtain ⟨hhi, hhi'⟩ := scaledLimit_range cfg.speedIMax cfg.PI_FRAC
  obtain ⟨hge, hle⟩ := clamp_mem (x := integ + cfg.speedKi.toNat * e) hlo hhi hhi'
  rw [← piStep_fst] at hge hle
  exact BitVec.toInt_ofInt_eq_self (by decide) (by omega) (by omega)

/-- R176, R25: the 16-bit register reads back the new output, for its limits are 16-bit fields. -/
theorem piOut_toInt (cfg : Cfg) (integ e : Int) :
    (BitVec.ofInt 16 (piStep cfg integ e).2).toInt = (piStep cfg integ e).2 := by
  obtain ⟨hlo, -⟩ := s16_range cfg.speedPiMin
  obtain ⟨hhi, hhi'⟩ := s16_range cfg.speedPiMax
  obtain ⟨hge, hle⟩ :=
    clamp_mem (x := floorDivPow2 (cfg.speedKp.toNat * e + (piStep cfg integ e).1) cfg.PI_FRAC.val) hlo hhi hhi'
  rw [← piStep_snd] at hge hle
  exact BitVec.toInt_ofInt_eq_self (by decide) (by omega) (by omega)

/-- Settles O26: both results are clamped to limits that their registers hold. -/
theorem piResultsFitRegisters : Obligations.PiResultsFitRegisters :=
  fun cfg integ e => ⟨integ_toInt cfg integ e, piOut_toInt cfg integ e⟩

/-- Settles O29: the error 0 adds nothing to the integrator, and its clamp leaves it inside its limits alone. -/
theorem piStepFixedPointAtZeroError : Obligations.PiStepFixedPointAtZeroError := by
  intro cfg integ hlo hhi
  have hfix : (piStep cfg integ 0).1 = integ := by
    rw [piStep_fst, mul_zero, add_zero, clamp_of_mem hlo hhi]
  exact ⟨hfix, by rw [hfix]⟩

/-- R175, R179: limits in order hold the new integrator, whatever the error. -/
theorem piStep_fst_mem {cfg : Cfg} (hw : WfCfg cfg) (integ e : Int) :
    cfg.speedIMin.toInt * 2 ^ cfg.PI_FRAC.val ≤ (piStep cfg integ e).1 ∧
    (piStep cfg integ e).1 ≤ cfg.speedIMax.toInt * 2 ^ cfg.PI_FRAC.val :=
  ⟨le_clamp (mul_le_mul_of_nonneg_right hw.iMin_le_iMax (by positivity)), clamp_le _ _ _⟩

/-- R175, R179: limits in order hold the new output, whatever the error. -/
theorem piStep_snd_mem {cfg : Cfg} (hw : WfCfg cfg) (integ e : Int) :
    cfg.speedPiMin.toInt ≤ (piStep cfg integ e).2 ∧ (piStep cfg integ e).2 ≤ cfg.speedPiMax.toInt :=
  ⟨le_clamp hw.piMin_le_piMax, clamp_le _ _ _⟩

/-! ### SETREF and the speed error (R170, R172, R174) -/

/-- Settles O23: the one register SETREF writes reads back the operand, which is a signed 16-bit number. -/
theorem setrefWritesReferenceOnly : Obligations.SetrefWritesReferenceOnly := by
  intro s v hlo hhi
  have hread : (BitVec.ofInt 16 v).toInt = v := BitVec.toInt_ofInt_eq_self (by decide) hlo (by omega)
  exact ⟨_, rfl, hread, rfl, rfl⟩

theorem magnitude_of_nonneg {v : BitVec 16} (h : 0 ≤ v.toInt) : magnitude v = v.toInt := Int.natAbs_of_nonneg h

theorem magnitude_of_neg {v : BitVec 16} (h : v.toInt < 0) : magnitude v = -v.toInt :=
  Int.ofNat_natAbs_of_nonpos h.le

/-- R9, R174: the magnitude of a signed field, that of -32768 included. -/
theorem magnitude_range (v : BitVec 16) : 0 ≤ magnitude v ∧ magnitude v ≤ 32768 := by
  have hv := s16_range v
  unfold magnitude
  omega

/-- Settles O24: the error by the sign of the reference, and its range from those of the magnitude and the measured
speed. -/
theorem speedErrorFromMagnitudes : Obligations.SpeedErrorFromMagnitudes := by
  intro cfg r
  obtain ⟨hnonneg, hle⟩ := speedMeas_range cfg r
  have hmag := magnitude_range r.ref_speed
  refine ⟨fun h => ?_, fun h => ?_, fun h => ?_, fun h => ?_, hnonneg, hle, ?_, ?_⟩
  · rw [speedError, magnitude_of_nonneg h]
  · rw [speedError, magnitude_of_neg h]
  · simp [speedMeas, h]
  · simp [speedMeas, h]
  · rw [speedError]; omega
  · rw [speedError]; omega

/-! ### TICK by `mstate` and count (R177) -/

theorem exec_tick (s : State) : exec .tick s = .next (s.answer (tickEvent s.cfg s.regs)) := rfl

/-- R177: the direction is latched from the sign of the reference. -/
theorem dirOfRef_eq_reverse_iff (v : BitVec 16) : dirOfRef v = .reverse ↔ v.toInt < 0 := by
  unfold dirOfRef
  split <;> simp_all

/-- A count below the largest is incremented without wrap. -/
theorem stall_succ_toNat {c : BitVec 16} (h : c.toNat < 65535) : (c + 1).toNat = c.toNat + 1 :=
  BitVec.toNat_add_of_lt (by simpa using Nat.succ_lt_succ h)

section
variable (cfg : Cfg) {r : Regs}

theorem tickEvent_of_unpowered (h : unpowered r) : tickEvent cfg r = (r, .ok) := if_pos h

theorem tickEvent_at_limit (h : powered r) (hl : cfg.STALL_TICKS.toNat ≤ r.stall_cnt.toNat + 1) :
    tickEvent cfg r = ({ r with
      stall_cnt := r.stall_cnt + 1, ch := allOff, mstate := .fault, fault_kind := .stallTimeout }, .ok) := by
  obtain ⟨hm, -⟩ | ⟨-, -, he⟩ | ⟨-, hl', -⟩ | ⟨-, hl', -⟩ := tickEvent_cases cfg r
  · exact absurd hm (not_unpowered_of_powered h)
  · exact he
  · omega
  · omega

theorem tickEvent_of_starting (h : r.mstate = .starting) (hl : r.stall_cnt.toNat + 1 < cfg.STALL_TICKS.toNat) :
    tickEvent cfg r = ({ r with stall_cnt := r.stall_cnt + 1, dir_cmd := dirOfRef r.ref_speed }, .ok) := by
  obtain ⟨hm, -⟩ | ⟨-, hl', -⟩ | ⟨-, -, he⟩ | ⟨hm, -⟩ := tickEvent_cases cfg r
  · exact absurd hm (not_unpowered_of_powered (.inl h))
  · omega
  · exact he
  · cases h.symm.trans hm

theorem tickEvent_of_running (h : r.mstate = .running) (hl : r.stall_cnt.toNat + 1 < cfg.STALL_TICKS.toNat) :
    tickEvent cfg r = ({ r with
      stall_cnt := r.stall_cnt + 1, dir_cmd := dirOfRef r.ref_speed
      integ := BitVec.ofInt 48 (piStep cfg r.integ.toInt (speedError cfg r)).1
      pi_out := BitVec.ofInt 16 (piStep cfg r.integ.toInt (speedError cfg r)).2
      duty := BitVec.ofInt 16 (outStage cfg (piStep cfg r.integ.toInt (speedError cfg r)).2) }, .ok) := by
  obtain ⟨hm, -⟩ | ⟨-, hl', -⟩ | ⟨hm, -⟩ | ⟨-, -, he⟩ := tickEvent_cases cfg r
  · exact absurd hm (not_unpowered_of_powered (.inr h))
  · omega
  · cases h.symm.trans hm
  · exact he

/-- Below the stall limit TICK counts and leaves the bridge powered. -/
theorem tickEvent_below_limit (h : powered r) (hl : r.stall_cnt.toNat + 1 < cfg.STALL_TICKS.toNat) :
    powered (tickEvent cfg r).1 ∧ (tickEvent cfg r).1.stall_cnt = r.stall_cnt + 1 := by
  rcases h with hm | hm
  · rw [tickEvent_of_starting cfg hm hl]
    exact ⟨.inl hm, rfl⟩
  · rw [tickEvent_of_running cfg hm hl]
    exact ⟨.inr hm, rfl⟩

end

/-- Settles O27: TICK by its cases, with the incremented count and the direction of the reference. -/
theorem tickCountsAndRunsPi : Obligations.TickCountsAndRunsPi := by
  intro s
  refine ⟨fun hm => ?_, fun hm => ⟨s.regs.stall_cnt + 1, dirOfRef s.regs.ref_speed, stall_succ_toNat,
    dirOfRef_eq_reverse_iff _, fun hl => ?_, fun hl => ⟨fun hs => ?_, fun hr acc out hpi => ?_⟩⟩⟩
  · rw [exec_tick, tickEvent_of_unpowered s.cfg hm, State.answer_same]
  · rw [exec_tick, tickEvent_at_limit s.cfg hm hl]
    rfl
  · rw [exec_tick, tickEvent_of_starting s.cfg hs hl]
    rfl
  · rw [exec_tick, tickEvent_of_running s.cfg hr hl, hpi]
    rfl

/-- R150, R179: under the limits of CFG_T the output stage of an output in 8..75 is its minimum with the period. -/
theorem outStage_eq_min {cfg : Cfg} {d : Int} (hmin : cfg.speedIMin = 0) (hmax : cfg.speedIMax = 75)
    (hperiod : cfg.pwmPeriod = 40) (hlo : 8 ≤ d) (hhi : d ≤ 75) : outStage cfg d = min d 40 := by
  have hzero : cfg.speedIMin.toInt = 0 := by rw [hmin]; rfl
  have htop : cfg.speedIMax.toInt = 75 := by rw [hmax]; rfl
  have hp : cfg.pwmPeriod.toNat = 40 := by rw [hperiod]; rfl
  rw [outStage, hzero, htop, hp, clamp_of_mem (by omega) hhi, clamp, max_eq_left (by omega)]
  rfl

/-- Settles O28: the registers read back the results of the PI step, which are in their limits, and the duty those of
the output stage. -/
theorem clampsHoldAfterEveryPiStep : Obligations.ClampsHoldAfterEveryPiStep := by
  intro s hw hm hl
  obtain ⟨hacclo, hacchi⟩ := piStep_fst_mem hw s.regs.integ.toInt (speedError s.cfg s.regs)
  obtain ⟨houtlo, houthi⟩ := piStep_snd_mem hw s.regs.integ.toInt (speedError s.cfg s.regs)
  refine ⟨_, exec_tick s, ?_⟩
  rw [tickEvent_of_running s.cfg hm hl]
  dsimp only [State.answer_regs]
  rw [integ_toInt, piOut_toInt]
  refine ⟨hacclo, hacchi, houtlo, houthi, fun ⟨hmin, hmax, hpimin, hpimax, hperiod⟩ => ?_⟩
  have hlo : s.cfg.speedPiMin.toInt = 8 := by rw [hpimin]; rfl
  have hhi : s.cfg.speedPiMax.toInt = 75 := by rw [hpimax]; rfl
  have hduty := duty_toNat s.cfg (piStep s.cfg s.regs.integ.toInt (speedError s.cfg s.regs)).2
  rw [outStage_eq_min hmin hmax hperiod (hlo ▸ houtlo) (hhi ▸ houthi)] at hduty ⊢
  refine ⟨hduty, ?_, ?_⟩ <;> omega

/-! ### The stall timeout (R178) -/

/-- A pending TICK word is taken and its rule followed. -/
theorem step_tick {s : State} {rest : List PortWord} (h : s.pending = encode .tick :: rest) :
    step s = .next ((s.taken rest).answer (tickEvent s.cfg s.regs)) := by
  rw [step_cons h, takeWord, followed_of_decode (decodeInvertsEncode .tick rfl)]
  rfl

/-- Settles O30, by induction on the TICKs the count lacks: each but the last counts and leaves the bridge powered, and
the last one reaches the limit. -/
theorem stallTimeoutAfterStallTicks : Obligations.StallTimeoutAfterStallTicks := by
  intro n
  induction n with
  | zero =>
    intro s rest hm hcount hp
    have hticks := s.cfg.STALL_TICKS.isLt
    have hsucc : (s.regs.stall_cnt + 1).toNat = s.regs.stall_cnt.toNat + 1 := stall_succ_toNat (by omega)
    refine ⟨_, run_succ_of_step core 0 (step_tick hp), ?_⟩
    rw [tickEvent_at_limit s.cfg hm (by omega)]
    exact ⟨rfl, rfl, BitVec.eq_of_toNat_eq (by rw [← hcount]; exact hsucc), allOff_get, rfl⟩
  | succ n ih =>
    intro s rest hm hcount hp
    have hticks := s.cfg.STALL_TICKS.isLt
    have hsucc : (s.regs.stall_cnt + 1).toNat = s.regs.stall_cnt.toNat + 1 := stall_succ_toNat (by omega)
    obtain ⟨hm', hc'⟩ := tickEvent_below_limit s.cfg hm (by omega)
    have hcount' : (tickEvent s.cfg s.regs).1.stall_cnt.toNat + (n + 1) = s.cfg.STALL_TICKS.toNat := by
      rw [hc', hsucc, ← hcount]
      omega
    obtain ⟨t, hrun, ht⟩ := ih ((s.taken (List.replicate (n + 1) (encode .tick) ++ rest)).answer
      (tickEvent s.cfg s.regs)) rest hm' hcount' rfl
    exact ⟨t, (run_succ_of_step core (n + 1) (step_tick hp)).trans hrun, ht⟩

end Sys2Proof.Machine

/-! ## Supervisor (44_supervisor.md): INIT, START, STOP, the transition table, and the entries into Running and Fault -/

namespace Sys2Proof.Machine

open Sys2Proof Sys2Proof.Safety

/-! ### INIT (R201) -/

theorem exec_init (s : State) : exec .init s = .next (s.answer (Regs.reset, .ok)) := by
  rw [← initialise_eq s.regs]
  rfl

/-- Settles O11: the tuple is the one of R44, and what INIT makes of every other one. -/
theorem initRestoresReset : Obligations.InitRestoresReset :=
  ⟨Regs.reset, rfl, rfl, rfl, rfl, rfl, rfl, rfl, rfl, rfl, rfl, rfl, rfl, rfl, rfl, allOff_get, rfl, rfl, rfl, rfl,
    rfl, rfl, exec_init⟩

/-! ### START by `mstate` and latched diagnosis (R202) -/

theorem exec_start (s : State) : exec .start s = .next (s.answer (startEvent s.cfg s.regs)) := rfl

section
variable (cfg : Cfg) {r : Regs}

theorem startEvent_of_ne_off (h : r.mstate ≠ .off) : startEvent cfg r = (r, .errState) := if_pos h

theorem startEvent_of_globFail (h : r.mstate = .off) (hg : r.glob_fail = true) :
    startEvent cfg r = (enterFault .bridgeDiagnosisFault (primed r), .ok) := by
  rw [startEvent, if_neg (not_not.mpr h), if_pos hg]

theorem startEvent_of_openLoadFatal (h : r.mstate = .off) (hg : r.glob_fail = false) (ho : r.ol = true)
    (hf : cfg.openLoadFatal = true) : startEvent cfg r = (enterFault .openLoad (primed r), .ok) := by
  rw [startEvent, if_neg (not_not.mpr h), if_neg (by simp [hg]), if_pos (by simp [ho, hf])]

theorem startEvent_of_healthy (h : r.mstate = .off) (hg : r.glob_fail = false)
    (ho : r.ol = false ∨ cfg.openLoadFatal = false) : startEvent cfg r = ({ primed r with ch := allEn }, .ok) := by
  have hok : ¬ (r.ol && cfg.openLoadFatal) = true := by
    rcases ho with ho | hf
    · simp [ho]
    · simp [hf]
  rw [startEvent, if_neg (not_not.mpr h), if_neg (by simp [hg]), if_neg hok, setBridge_packImage]

end

/-- Settles O12: START by its cases, the direction that of the reference. -/
theorem startPrimesAndEnables : Obligations.StartPrimesAndEnables := by
  intro s
  refine ⟨fun hm => ?_, fun hm => ⟨dirOfRef s.regs.ref_speed, dirOfRef_eq_reverse_iff _, fun hg => ?_,
    fun ⟨hg, ho, hf⟩ => ?_, fun ⟨hg, ho⟩ => ?_⟩⟩
  · rw [exec_start, startEvent_of_ne_off s.cfg hm, State.answer_same]
  · rw [exec_start, startEvent_of_globFail s.cfg hm hg, enterFault_eq]
    rfl
  · rw [exec_start, startEvent_of_openLoadFatal s.cfg hm hg ho hf, enterFault_eq]
    rfl
  · rw [exec_start, startEvent_of_healthy s.cfg hm hg ho]
    rfl

/-! ### STOP by `mstate` (R203) -/

theorem exec_stop (s : State) : exec .stop s = .next (s.answer (stopEvent s.regs)) := rfl

theorem stopEvent_of_powered {r : Regs} (h : powered r) :
    stopEvent r = ({ r with ch := allOff, mstate := .off }, .ok) :=
  (if_pos h).trans (by rw [setBridge_packImage])

theorem stopEvent_of_unpowered {r : Regs} (h : unpowered r) : stopEvent r = (r, .errState) :=
  if_neg fun hp => not_unpowered_of_powered hp h

/-- Settles O13: STOP by its cases. -/
theorem stopSwitchesBridgeOff : Obligations.StopSwitchesBridgeOff := by
  intro s
  refine ⟨fun hm => ?_, fun hm => ?_⟩
  · rw [exec_stop, stopEvent_of_powered hm]
    rfl
  · rw [exec_stop, stopEvent_of_unpowered hm, State.answer_same]

/-! ### The row of each event in the table (R200) -/

section
variable (cfg : Cfg) (r : Regs)

theorem startEvent_tableCell : TableCell .start cfg r (startEvent cfg r).1 (startEvent cfg r).2 := by
  obtain ⟨hm, he⟩ | ⟨hm, hg, he⟩ | ⟨hm, hg, ho, hf, he⟩ | ⟨hm, hg, ho, he⟩ := startEvent_cases cfg r <;> rw [he]
  · exact ⟨fun _ => ⟨rfl, rfl⟩, fun h => absurd h hm⟩
  · simp [TableCell, hm, hg]
  · simp [TableCell, hm, hg, ho, hf]
  · rcases ho with ho | hf
    · simp [TableCell, primed, hm, hg, ho]
    · simp [TableCell, primed, hm, hg, hf]

theorem stopEvent_tableCell : TableCell .stop cfg r (stopEvent r).1 (stopEvent r).2 :=
  ⟨fun hm => by rw [stopEvent_of_powered hm]; exact ⟨rfl, rfl⟩,
    fun hm => by rw [stopEvent_of_unpowered hm]; exact ⟨rfl, rfl⟩⟩

/-- TICK keeps `mstate` but for the stall fault, and counts only on a powered bridge. -/
theorem tickEvent_tableCell : TableCell .tick cfg r (tickEvent cfg r).1 (tickEvent cfg r).2 := by
  obtain ⟨hm, he⟩ | ⟨hm, hl, he⟩ | ⟨hm, hl, he⟩ | ⟨hm, hl, he⟩ := tickEvent_cases cfg r <;> rw [he]
  · exact ⟨rfl, fun ⟨hp, _⟩ => absurd hm (not_unpowered_of_powered hp), fun _ => rfl, fun _ => rfl⟩
  · have hu := not_unpowered_of_powered hm
    exact ⟨rfl, fun _ => rfl, fun h => h.elim (absurd · hu) (by omega), (absurd · hu)⟩
  · have hu := not_unpowered_of_powered (.inl hm)
    exact ⟨rfl, fun ⟨_, _⟩ => by omega, fun _ => rfl, (absurd · hu)⟩
  · have hu := not_unpowered_of_powered (.inr hm)
    exact ⟨rfl, fun ⟨_, _⟩ => by omega, fun _ => rfl, (absurd · hu)⟩

theorem hallEvent_tableCell (ts : BitVec 24) (pat : BitVec 3) :
    TableCell (.hall ts pat) cfg r (hallEvent cfg ts pat r).1 (hallEvent cfg ts pat r).2 := by
  obtain ⟨hm, he⟩ | ⟨hm, hp, he⟩ | ⟨hm, hp, k, -, he⟩ := hallEvent_cases cfg ts pat r <;> rw [he]
  · exact ⟨fun _ => ⟨rfl, rfl⟩, fun h => absurd hm (not_unpowered_of_powered h)⟩
  · exact ⟨(absurd · (not_unpowered_of_powered hm)), fun _ => ⟨rfl, fun _ => rfl, (absurd hp ·)⟩⟩
  · exact ⟨(absurd · (not_unpowered_of_powered hm)),
      fun _ => ⟨rfl, (absurd · hp), fun _ => hallSample_mstate cfg _ ts hm⟩⟩

/-- R236, R237: the computed flag is set exactly by failing answers. -/
theorem globalFail_iff_failing {d : DiagFields} {r0 r1 r2 : BitVec 2} (h0 : d.p0.code = r0) (h1 : d.p1.code = r1)
    (h2 : d.p2.code = r2) : globalFail d = true ↔ failing r0 r1 r2 := by
  rw [globalFail_iff, h0, h1, h2, failing]

theorem offdiagEvent_tableCell {r0 r1 r2 : BitVec 2} (hw : Instr.WellFormed (.offdiag r0 r1 r2)) :
    TableCell (.offdiag r0 r1 r2) cfg r (offdiagEvent r0 r1 r2 r).1 (offdiagEvent r0 r1 r2 r).2 := by
  obtain ⟨hr, -⟩ | ⟨-, d, h0, h1, h2, hcase⟩ := offdiagEvent_cases r0 r1 r2 r
  · have hbad := diagCodes_not_valid_iff.mpr (by simpa [← BitVec.toNat_inj] using hr)
    cases hbad.symm.trans hw
  have hfail := globalFail_iff_failing h0 h1 h2
  obtain ⟨hm, he⟩ | ⟨hm, hg, he⟩ | ⟨hm, hg, he⟩ | ⟨hm, hg, he⟩ | ⟨hm, he⟩ := hcase <;> rw [he]
  · simp [TableCell, latched, powered, hm, h0, h1, h2, hfail]
  · simp [TableCell, latched, powered, hm, h0, h1, h2, ← hfail, hg]
  · simp [TableCell, powered, hm, ← hfail, hg]
  · rcases hm with hm | hm <;> simp [TableCell, hm, ← hfail, hg]
  · simp [TableCell, powered, hm]

theorem diagolEvent_tableCell (o : Bool) :
    TableCell (.diagol o) cfg r (diagolEvent cfg o r).1 (diagolEvent cfg o r).2 := by
  obtain ⟨hm, he⟩ | ⟨hm, ho, he⟩ | ⟨hm, ho, hf, he⟩ | ⟨hm, he⟩ | ⟨hm, he⟩ := diagolEvent_cases cfg o r <;> rw [he]
  · simp [TableCell, hm]
  · rcases ho with ho | hf
    · simp [TableCell, hm, ho]
    · simp [TableCell, hm, hf]
  · simp [TableCell, hm, ho, hf]
  · simp [TableCell, hm]
  · simp [TableCell, hm]

/-- R33: a flag word reads back the bit that was set. -/
theorem setFlag_getLsbD_same (x : BitVec 12) {b : Nat} (hb : b < 12) (v : Bool) : (setFlag x b v).getLsbD b = v := by
  rw [setFlag_getLsbD x b v b hb, if_pos rfl]

theorem monEvent_tableCell {chn : BitVec 3} {kind : Bool} (hw : Instr.WellFormed (.mon chn kind)) :
    TableCell (.mon chn kind) cfg r (monEvent chn kind r).1 (monEvent chn kind r).2 := by
  obtain ⟨hc, -⟩ | ⟨-, hi, hm, he⟩ | ⟨hc, hi, he⟩ := monEvent_cases chn kind r
  · have hchn : chn.toNat ≤ 5 := of_decide_eq_true hw
    omega
  · rw [he]
    exact ⟨rfl, fun _ => rfl, fun h => h.elim (absurd · (not_unpowered_of_powered hm)) (by simp [hi])⟩
  · have hk := kind.toNat_le
    rw [he]
    refine ⟨rfl, fun ⟨hp, hen⟩ => ?_, fun _ => ⟨rfl, setFlag_getLsbD_same _ (by omega) _⟩⟩
    exact hi.elim (by simp [hen]) (absurd · (not_unpowered_of_powered hp))

theorem setintEvent_tableCell {chn : BitVec 3} (which : BitVec 2) (hw : Instr.WellFormed (.setint chn which)) :
    TableCell (.setint chn which) cfg r (setintEvent chn which r).1 (setintEvent chn which r).2 := by
  obtain ⟨hc, -⟩ | ⟨-, k, -, he, -⟩ := setintEvent_cases chn which r
  · have hchn : chn.toNat ≤ 5 := of_decide_eq_true hw
    omega
  · rw [he]
    exact ⟨rfl, rfl⟩

end

/-- Settles O14: the row of each event, and the refusal of the reserved words. -/
theorem transitionTable : Obligations.TransitionTable := by
  refine ⟨fun i s hport hw => ?_, fun s w rest hp hres => ?_⟩
  · cases i with
    | init => exact ⟨_, _, exec_init s, rfl, rfl, rfl⟩
    | start => exact ⟨_, _, rfl, rfl, startEvent_tableCell s.cfg s.regs⟩
    | stop => exact ⟨_, _, rfl, rfl, stopEvent_tableCell s.cfg s.regs⟩
    | setref _ => exact ⟨_, _, rfl, rfl, rfl, rfl⟩
    | tick => exact ⟨_, _, rfl, rfl, tickEvent_tableCell s.cfg s.regs⟩
    | hall ts pat => exact ⟨_, _, rfl, rfl, hallEvent_tableCell s.cfg s.regs ts pat⟩
    | offdiag _ _ _ => exact ⟨_, _, rfl, rfl, offdiagEvent_tableCell s.cfg s.regs hw⟩
    | diagol o => exact ⟨_, _, rfl, rfl, diagolEvent_tableCell s.cfg s.regs o⟩
    | mon _ _ => exact ⟨_, _, rfl, rfl, monEvent_tableCell s.cfg s.regs hw⟩
    | clrsts _ => exact ⟨_, _, rfl, rfl, rfl, rfl⟩
    | setint _ which => exact ⟨_, _, rfl, rfl, setintEvent_tableCell s.cfg s.regs which hw⟩
    | bSetbridge _ | bSetch _ _ | bClrsts _ | bSetint _ _ | bDiagol _ | bOffdiag _ _ _ => cases hport
  · exact ⟨_, (reservedEventWordsRefused s w rest hp).1 hres, rfl, rfl⟩

/-! ### Where an instruction takes `mstate` (R204, R205) -/

/-- R204, R276: `t` is `r` after an instruction that ends in `enter_fault`. -/
structure EntersFault (i : Instr) (r t : Regs) : Prop where
  mstate_eq : t.mstate = .fault
  ch_eq : t.ch = allOff
  kind_ne : t.fault_kind ≠ .none
  rest_kept : FaultKeepsRest i r t

/-- Every instruction keeps `mstate`, ends in Off or Starting, enters Fault, or is a valid HALL sample on a powered
bridge and ends in Running. -/
theorem regsAfter_mstate_cases (cfg : Cfg) {r t : Regs} {i : Instr} (ht : regsAfter i cfg r = t) :
    t.mstate = r.mstate ∨ (t.mstate = .off ∨ t.mstate = .starting) ∨ EntersFault i r t ∨
      (t.mstate = .running ∧ powered r ∧ ∃ ts pat, i = .hall ts pat ∧ ¬ invalidPattern pat) := by
  subst ht
  cases i <;> dsimp only [regsAfter]
  case init =>
    rw [initEvent, initialise_eq]
    exact .inr (.inl (.inl rfl))
  case start =>
    obtain ⟨-, he⟩ | ⟨-, -, he⟩ | ⟨-, -, -, -, he⟩ | ⟨-, -, -, he⟩ := startEvent_cases cfg r <;> rw [he]
    · exact .inl rfl
    · rw [enterFault_eq]
      exact .inr (.inr (.inl ⟨rfl, rfl, nofun, rfl⟩))
    · rw [enterFault_eq]
      exact .inr (.inr (.inl ⟨rfl, rfl, nofun, rfl⟩))
    · exact .inr (.inl (.inr rfl))
  case stop =>
    obtain ⟨-, he⟩ | ⟨-, he⟩ := stopEvent_cases r <;> rw [he]
    exacts [.inr (.inl (.inl rfl)), .inl rfl]
  case tick =>
    obtain ⟨-, he⟩ | ⟨-, -, he⟩ | ⟨-, -, he⟩ | ⟨-, -, he⟩ := tickEvent_cases cfg r <;> rw [he]
    exacts [.inl rfl, .inr (.inr (.inl ⟨rfl, rfl, nofun, rfl⟩)), .inl rfl, .inl rfl]
  case hall ts pat =>
    obtain ⟨-, he⟩ | ⟨-, -, he⟩ | ⟨hm, hp, k, -, he⟩ := hallEvent_cases cfg ts pat r <;> rw [he]
    exacts [.inl rfl, .inr (.inr (.inl ⟨rfl, rfl, nofun, rfl⟩)),
      .inr (.inr (.inr ⟨hallSample_mstate cfg _ ts hm, hm, ts, pat, rfl, hp⟩))]
  case offdiag r0 r1 r2 =>
    obtain ⟨-, he⟩ | ⟨-, d, -, -, -, ⟨-, he⟩ | ⟨-, -, he⟩ | ⟨-, -, he⟩ | ⟨-, -, he⟩ | ⟨-, he⟩⟩ :=
      offdiagEvent_cases r0 r1 r2 r <;> rw [he]
    exacts [.inl rfl, .inl rfl, .inl rfl, .inl rfl, .inr (.inr (.inl ⟨rfl, rfl, nofun, rfl⟩)), .inl rfl]
  case diagol o =>
    obtain ⟨-, he⟩ | ⟨-, -, he⟩ | ⟨-, -, -, he⟩ | ⟨-, he⟩ | ⟨-, he⟩ := diagolEvent_cases cfg o r <;> rw [he]
    exacts [.inl rfl, .inl rfl, .inr (.inr (.inl ⟨rfl, rfl, nofun, rfl⟩)), .inl rfl, .inl rfl]
  case mon chn kind =>
    obtain ⟨-, he⟩ | ⟨-, -, -, he⟩ | ⟨-, -, he⟩ := monEvent_cases chn kind r <;> rw [he]
    exacts [.inl rfl, .inr (.inr (.inl ⟨rfl, rfl, nofun, rfl⟩)), .inl rfl]
  case setint chn which =>
    obtain ⟨-, he, -⟩ | ⟨-, k, -, he, -⟩ := setintEvent_cases chn which r <;> rw [he] <;> exact .inl rfl
  case setref | clrsts | bClrsts | bDiagol => exact .inl rfl
  case bSetbridge img => obtain he | ⟨g, he⟩ := setBridge_cases img r <;> rw [he] <;> exact .inl rfl
  case bSetch chn cfgv => obtain he | ⟨c, v, he⟩ := setChannel_cases chn cfgv r <;> rw [he] <;> exact .inl rfl
  case bSetint chn which => obtain he | ⟨e, he⟩ := setInterrupt_cases chn which r <;> rw [he] <;> exact .inl rfl
  case bOffdiag r0 r1 r2 => obtain he | ⟨d, he⟩ := offDiagnosis_cases r0 r1 r2 r <;> rw [he] <;> exact .inl rfl

/-- Settles O43: an instruction that ends in Fault from another state is one that enters it. -/
theorem faultStepSwitchesBridgeOff : Obligations.FaultStepSwitchesBridgeOff := by
  intro i s t h hs ht
  obtain ⟨hregs, -, -⟩ := exec_inv h
  obtain hm | (hm | hm) | ⟨-, hch, hk, hrest⟩ | ⟨hm, -⟩ := regsAfter_mstate_cases s.cfg hregs.symm
  · exact absurd (hm.symm.trans ht) hs
  · cases hm.symm.trans ht
  · cases hm.symm.trans ht
  · exact ⟨fun c => hch ▸ allOff_get c, hk, Bool.eq_false_iff.mpr (mt (irqFault_iff _).mp hs), (irqFault_iff _).mpr ht,
      hrest⟩
  · cases hm.symm.trans ht

/-! ### The entry into Running (R205) -/

/-- R205: an instruction that ends in Running from another state is a valid HALL sample in Starting. -/
theorem startingHall_of_regsAfter_running (cfg : Cfg) {r t : Regs} {i : Instr} (ht : regsAfter i cfg r = t)
    (hr : r.mstate ≠ .running) (hrun : t.mstate = .running) :
    r.mstate = .starting ∧ ∃ ts pat, i = .hall ts pat ∧ ¬ invalidPattern pat := by
  obtain hm | (hm | hm) | hf | ⟨-, hp, hhall⟩ := regsAfter_mstate_cases cfg ht
  · exact absurd (hm.symm.trans hrun) hr
  · cases hm.symm.trans hrun
  · cases hm.symm.trans hrun
  · cases hf.mstate_eq.symm.trans hrun
  · exact ⟨hp.resolve_right hr, hhall⟩

/-- R113, R205: the first sample of a motor that is starting, for (b) of R45 says that no sector is established. -/
theorem hallEvent_of_starting {cfg : Cfg} {r : Regs} (h : RegInv cfg r) (hm : r.mstate = .starting) (ts : BitVec 24)
    {pat : BitVec 3} (hp : ¬ invalidPattern pat) : ∃ k : Fin 6, pat.toNat = k.val + 1 ∧
      hallEvent cfg ts pat r = ({ r with
        sector := cfg.HALL_MAP.get k, sector_valid := true, last_ts := ts, stall_cnt := 0, mstate := .running
        duty := BitVec.ofInt 16 (outStage cfg cfg.initDuty.toNat)
        ch := commEntry cfg (cfg.HALL_MAP.get k) r.dir_cmd }, .ok) := by
  obtain ⟨hm', -⟩ | ⟨-, hp', -⟩ | ⟨-, -, k, hk, he⟩ := hallEvent_cases cfg ts pat r
  · exact absurd hm' (not_unpowered_of_powered (.inl hm))
  · exact absurd hp' hp
  · obtain ⟨-, hv⟩ := h.starting_allEnabled hm
    have hfirst : classify (cfg.HALL_MAP.get k) r = .first := if_pos hv
    exact ⟨k, hk, by rw [he, hallSample_starting cfg _ ts hm, hfirst]; rfl⟩

/-- Settles O15: what ends in Running is the first sample of a motor that is starting, with its writes. -/
theorem runningEnteredByValidHallOnly : Obligations.RunningEnteredByValidHallOnly := by
  intro i s t hs h hr
  obtain ⟨hregs, -, -⟩ := exec_inv h
  have honly := startingHall_of_regsAfter_running s.cfg hregs.symm hr
  refine ⟨⟨honly, ?_⟩, ?_⟩
  · rintro ⟨hm, ts, pat, rfl, hp⟩
    obtain ⟨k, -, he⟩ := hallEvent_of_starting hs.regs_inv hm ts hp
    rw [hregs, regsAfter, he]
  · rintro ts pat rfl hrun
    obtain ⟨hm, _, _, heq, hp⟩ := honly hrun
    cases heq
    obtain ⟨k, hk, he⟩ := hallEvent_of_starting hs.regs_inv hm ts hp
    rw [hregs, regsAfter, he]
    refine ⟨fun j hj => ?_, duty_toNat s.cfg _, rfl⟩
    obtain rfl : j = k := Fin.ext (by omega)
    rfl

end Sys2Proof.Machine

/-! ## BDRV layer (45_bdrv.md): the events and the operations of the layer, and the PWM output -/

namespace Sys2Proof.Machine

open Sys2Proof Sys2Proof.Safety

/-! ### OFFDIAG by `mstate` and answers (R236, R237) -/

theorem exec_offdiag (r0 r1 r2 : BitVec 2) (s : State) :
    exec (.offdiag r0 r1 r2) s = .next (s.answer (offdiagEvent r0 r1 r2 s.regs)) := rfl

/-- R89: three answers one of which is the reserved 3 name no phases. -/
theorem diagFieldsOfCodes_of_reserved {r0 r1 r2 : BitVec 2} (h : r0 = 3 ∨ r1 = 3 ∨ r2 = 3) :
    diagFieldsOfCodes r0 r1 r2 = none := by
  obtain ⟨-, e⟩ | ⟨hr, -⟩ := diagFieldsOfCodes_cases r0 r1 r2
  · exact e
  · exact absurd h hr

theorem offdiagEvent_of_reserved {r0 r1 r2 : BitVec 2} (h : r0 = 3 ∨ r1 = 3 ∨ r2 = 3) (r : Regs) :
    offdiagEvent r0 r1 r2 r = (r, .errReserved) := by
  rw [offdiagEvent, diagFieldsOfCodes_of_reserved h]

/-- R236: the operation latches the phases and the computed flag, and returns both. -/
@[simp] theorem offDiagnosis_codes (d : DiagFields) (r : Regs) :
    offDiagnosis d.p0.code d.p1.code d.p2.code r =
      ({ r with diag := d, glob_fail := globalFail d }, .diagResult d (globalFail d)) := by
  simp only [offDiagnosis, diagFieldsOfCodes_codes]

/-- R236: a flag that is set exactly by failing answers is the one the layer computes of their phases. -/
theorem eq_globalFail_of_iff_failing {d : DiagFields} {g : Bool}
    (h : g = true ↔ failing d.p0.code d.p1.code d.p2.code) : g = globalFail d :=
  Bool.eq_iff_iff.mpr (h.trans (globalFail_iff_failing rfl rfl rfl).symm)

section
variable (d : DiagFields) {r : Regs}

theorem offdiagEvent_of_off (h : r.mstate = .off) :
    offdiagEvent d.p0.code d.p1.code d.p2.code r = ({ r with diag := d, glob_fail := globalFail d }, .ok) := by
  simp only [offdiagEvent, diagFieldsOfCodes_codes, h, offDiagnosis_codes]

theorem offdiagEvent_of_starting (h : r.mstate = .starting) (hg : globalFail d = false) :
    offdiagEvent d.p0.code d.p1.code d.p2.code r = ({ r with diag := d, glob_fail := false }, .ok) := by
  simp [offdiagEvent, h, hg]

/-- R237: a passing answer obtained while switching proves nothing. -/
theorem offdiagEvent_of_running (h : r.mstate = .running) (hg : globalFail d = false) :
    offdiagEvent d.p0.code d.p1.code d.p2.code r = (r, .errDiagPwm) := by
  simp [offdiagEvent, h, hg]

/-- R237: a failing answer of a powered bridge is always honoured. -/
theorem offdiagEvent_of_failing (h : powered r) (hg : globalFail d = true) :
    offdiagEvent d.p0.code d.p1.code d.p2.code r = ({ r with
      diag := d, glob_fail := true, ch := allOff, mstate := .fault, fault_kind := .bridgeDiagnosisFault }, .ok) := by
  rcases h with h | h <;> simp [offdiagEvent, h, hg]

theorem offdiagEvent_of_fault (h : r.mstate = .fault) :
    offdiagEvent d.p0.code d.p1.code d.p2.code r = (r, .errState) := by
  simp only [offdiagEvent, diagFieldsOfCodes_codes, h]

end

/-- Settles O31: OFFDIAG by its cases, the flag being the one the layer computes of the phases. -/
theorem offdiagLatchesAndFaults : Obligations.OffdiagLatchesAndFaults := by
  refine fun s r0 r1 r2 => ⟨fun h => ?_, ?_⟩
  · rw [exec_offdiag, offdiagEvent_of_reserved h, State.answer_same]
  · rintro d g rfl rfl rfl hg
    obtain rfl := eq_globalFail_of_iff_failing hg
    rw [exec_offdiag]
    refine ⟨fun hm => ?_, fun ⟨hm, hpass⟩ => ?_, fun ⟨hm, hpass⟩ => ?_, fun ⟨hm, hfail⟩ => ?_, fun hm => ?_⟩
    · rw [offdiagEvent_of_off d hm]
      rfl
    · rw [offdiagEvent_of_starting d hm hpass]
      rfl
    · rw [offdiagEvent_of_running d hm hpass, State.answer_same]
    · rw [offdiagEvent_of_failing d hm hfail]
      rfl
    · rw [offdiagEvent_of_fault d hm, State.answer_same]

/-! ### DIAGOL by `mstate` and policy (R238) -/

theorem exec_diagol (o : Bool) (s : State) : exec (.diagol o) s = .next (s.answer (diagolEvent s.cfg o s.regs)) := rfl

section
variable (cfg : Cfg) (o : Bool) {r : Regs}

theorem diagolEvent_of_off (h : r.mstate = .off) : diagolEvent cfg o r = ({ r with ol := o }, .ok) := by
  simp only [diagolEvent, h, diagOpenLoad]

theorem diagolEvent_of_starting (h : r.mstate = .starting) (hok : o = false ∨ cfg.openLoadFatal = false) :
    diagolEvent cfg o r = ({ r with ol := o }, .ok) := by
  rcases hok with ho | hf
  · simp [diagolEvent, h, ho, diagOpenLoad]
  · simp [diagolEvent, h, hf, diagOpenLoad]

theorem diagolEvent_of_openLoadFatal (h : r.mstate = .starting) (hf : cfg.openLoadFatal = true) :
    diagolEvent cfg true r = ({ r with
      ol := true, ch := allOff, mstate := .fault, fault_kind := .openLoad }, .ok) := by
  simp [diagolEvent, h, hf, diagOpenLoad]

theorem diagolEvent_of_running (h : r.mstate = .running) : diagolEvent cfg o r = (r, .errDiagPwm) := by
  simp only [diagolEvent, h]

theorem diagolEvent_of_fault (h : r.mstate = .fault) : diagolEvent cfg o r = (r, .errState) := by
  simp only [diagolEvent, h]

end

/-- Settles O32: DIAGOL by its cases. -/
theorem diagolLatchesAndFaults : Obligations.DiagolLatchesAndFaults := by
  intro s o
  rw [exec_diagol]
  refine ⟨fun hm => ?_, fun ⟨hm, hok⟩ => ?_, fun ⟨hm, ho, hf⟩ => ?_, fun hm => ?_, fun hm => ?_⟩
  · rw [diagolEvent_of_off s.cfg o hm]
    rfl
  · rw [diagolEvent_of_starting s.cfg o hm hok]
    rfl
  · rw [ho, diagolEvent_of_openLoadFatal s.cfg hm hf]
    rfl
  · rw [diagolEvent_of_running s.cfg o hm, State.answer_same]
  · rw [diagolEvent_of_fault s.cfg o hm, State.answer_same]

/-! ### MON by channel, enable bit and `mstate` (R239) -/

theorem exec_mon (chn : BitVec 3) (kind : Bool) (s : State) :
    exec (.mon chn kind) s = .next (s.answer (monEvent chn kind s.regs)) := rfl

/-- R33, R239: setting one bit of a flag word adds it to those that are set. -/
theorem setFlag_true_getLsbD (x : BitVec 12) (b : Nat) {j : Nat} (hj : j < 12) :
    (setFlag x b true).getLsbD j = (x.getLsbD j || j == b) := by
  rw [setFlag_getLsbD x b true j hj]
  by_cases h : j = b <;> simp [h]

section
variable {chn : BitVec 3} {kind : Bool} {r : Regs}

theorem monEvent_of_reserved (h : 5 < chn.toNat) : monEvent chn kind r = (r, .errReserved) := by
  obtain ⟨-, he⟩ | ⟨hc, -⟩ | ⟨hc, -⟩ := monEvent_cases chn kind r
  · exact he
  · omega
  · omega

theorem monEvent_of_enabled (hc : chn.toNat ≤ 5) (hi : r.ien.getLsbD (2 * chn.toNat + kind.toNat) = true)
    (hm : powered r) : monEvent chn kind r = ({ r with
      sts := setFlag r.sts (2 * chn.toNat + kind.toNat) true, ch := allOff, mstate := .fault
      fault_kind := .bridgeDiagnosisFault }, .ok) := by
  obtain ⟨hc', -⟩ | ⟨-, -, -, he⟩ | ⟨-, hi' | hm', -⟩ := monEvent_cases chn kind r
  · omega
  · exact he
  · cases hi.symm.trans hi'
  · exact absurd hm' (not_unpowered_of_powered hm)

theorem monEvent_of_not_enabled (hc : chn.toNat ≤ 5)
    (h : r.ien.getLsbD (2 * chn.toNat + kind.toNat) = false ∨ unpowered r) :
    monEvent chn kind r = ({ r with sts := setFlag r.sts (2 * chn.toNat + kind.toNat) true }, .ok) := by
  obtain ⟨hc', -⟩ | ⟨-, hi', hm', -⟩ | ⟨-, -, he⟩ := monEvent_cases chn kind r
  · omega
  · rcases h with hi | hm
    · cases hi.symm.trans hi'
    · exact absurd hm (not_unpowered_of_powered hm')
  · exact he

end

/-- Settles O33: MON by its cases, the status word that with the one bit set. -/
theorem monSetsStatusAndFaults : Obligations.MonSetsStatusAndFaults := by
  intro s chn kind
  rw [exec_mon]
  refine ⟨fun hc => ?_, fun hc => ⟨_, _, rfl, fun j hj => setFlag_true_getLsbD s.regs.sts _ hj, fun ⟨hi, hm⟩ => ?_,
    fun h => ?_⟩⟩
  · rw [monEvent_of_reserved hc, State.answer_same]
  · rw [monEvent_of_enabled hc hi hm]
    rfl
  · rw [monEvent_of_not_enabled hc h]
    rfl

/-! ### The status bits and the enable bits (R233, R234, R240, R241) -/

/-- R233: the open-load latch after a write-one-to-clear. -/
theorem clearOpenLoad_eq (ol : Bool) (bits : BitVec 13) : clearOpenLoad ol bits = (ol && !bits.getLsbD 12) := by
  unfold clearOpenLoad
  cases bits.getLsbD 12 <;> simp

/-- Settles O34: the event and the operation write the same two registers. -/
theorem statusClearedByWritingOnes : Obligations.StatusClearedByWritingOnes := fun s bits =>
  ⟨_, _, clearStatus_getLsbD s.regs.sts bits, clearOpenLoad_eq s.regs.ol bits, rfl, rfl⟩

/-- R234: every bit of the enables after the two of one channel are replaced. -/
theorem setEnables_getLsbD (ien : BitVec 12) (c : Channel) (which : BitVec 2) {j : Nat} (hj : j < 12) :
    (setEnables ien c which).getLsbD j =
      if j = 2 * c.val + 1 then which.getLsbD 1 else if j = 2 * c.val then which.getLsbD 0 else ien.getLsbD j := by
  rw [setEnables, setFlag_getLsbD _ _ _ j hj, setFlag_getLsbD _ _ _ j hj]
  rfl

theorem exec_setint (chn : BitVec 3) (which : BitVec 2) (s : State) :
    exec (.setint chn which) s = .next (s.answer (setintEvent chn which s.regs)) := rfl

theorem exec_bSetint (chn : BitVec 3) (which : BitVec 2) (s : State) :
    exec (.bSetint chn which) s = .next (s.returned (setInterrupt chn which s.regs, .noValue)) := rfl

/-- Settles O35: a reserved channel is refused by both; on the others both write the enables with the two bits
replaced. -/
theorem enableBitsReplacedPerChannel : Obligations.EnableBitsReplacedPerChannel := by
  intro s chn which
  rw [exec_setint, exec_bSetint]
  obtain ⟨hc, he, hb⟩ | ⟨hc, k, hk, he, hb⟩ := setintEvent_cases chn which s.regs <;> rw [he, hb]
  · exact ⟨fun _ => ⟨rfl, rfl⟩, fun h => by omega⟩
  · have hbit := fun j hj => setEnables_getLsbD s.regs.ien k which (j := j) hj
    rw [hk] at hbit
    refine ⟨fun h => by omega, fun _ => ⟨setEnables s.regs.ien k which, ?_, ?_, fun j hj h0 h1 => ?_, rfl, rfl⟩⟩
    · rw [hbit _ (by omega), if_neg (by omega), if_pos rfl]
    · rw [hbit _ (by omega), if_pos rfl]
    · rw [hbit j hj, if_neg h1, if_neg h0]

/-! ### The image operations (R231, R232) -/

theorem exec_bSetbridge (img : BitVec 18) (s : State) :
    exec (.bSetbridge img) s = .next (s.returned (setBridge img s.regs, .noValue)) := rfl

/-- R231: the operand names an image, whose codes are its fields, or some field is above 4 and nothing is written. -/
theorem setBridge_field_cases (img : BitVec 18) (r : Regs) :
    ((∃ i : Fin 6, 4 < img.toNat / 8 ^ i.val % 8) ∧ setBridge img r = r) ∨
    (∃ g : Image, (∀ i : Fin 6, (configCode (g.get i)).toNat = img.toNat / 8 ^ i.val % 8) ∧
      setBridge img r = { r with ch := g }) := by
  unfold setBridge
  obtain ⟨⟨i, hi⟩, e⟩ | ⟨g, e, hg⟩ := unpackImage_cases img
  · exact .inl ⟨⟨i, by rwa [imgField_toNat] at hi⟩, by rw [e]⟩
  · exact .inr ⟨g, fun i => by rw [hg i, imgField_toNat], by rw [e]⟩

/-- Settles O36: a code is at most 4, so that the image of the operand and a field above 4 exclude each other. -/
theorem setbridgeWritesWholeImage : Obligations.SetbridgeWritesWholeImage := by
  intro s img
  rw [exec_bSetbridge]
  obtain ⟨⟨i, hi⟩, he⟩ | ⟨g, hg, he⟩ := setBridge_field_cases img s.regs <;> rw [he]
  · exact ⟨fun _ => rfl, fun hall => absurd (hall i) (by omega)⟩
  · refine ⟨fun ⟨i, hi⟩ => ?_, fun _ => ⟨g, hg, rfl⟩⟩
    have hle := configCode_le (g.get i)
    rw [hg i] at hle
    omega

theorem exec_bSetch (chn cfgv : BitVec 3) (s : State) :
    exec (.bSetch chn cfgv) s = .next (s.returned (setChannel chn cfgv s.regs, .noValue)) := rfl

/-- R232: an operand is out of range and nothing is written, or the channel's field takes the code. -/
theorem setChannel_operand_cases (chn cfgv : BitVec 3) (r : Regs) :
    ((5 < chn.toNat ∨ 4 < cfgv.toNat) ∧ setChannel chn cfgv r = r) ∨
    (chn.toNat ≤ 5 ∧ cfgv.toNat ≤ 4 ∧ ∃ (k : Channel) (v : ChannelConfig), k.val = chn.toNat ∧ configCode v = cfgv ∧
      setChannel chn cfgv r = { r with ch := r.ch.set k v }) := by
  unfold setChannel
  obtain ⟨hc, ec⟩ | ⟨hc, k, ec, hk⟩ := channelOfCode_cases chn
  · exact .inl ⟨.inl hc, by rw [ec]⟩
  obtain ⟨hv, ev⟩ | ⟨hv, v, ev, hcode⟩ := configOfCode_cases cfgv
  · exact .inl ⟨.inr hv, by rw [ec, ev]⟩
  · exact .inr ⟨hc, hv, k, v, hk, hcode, by rw [ec, ev]⟩

/-- Settles O37: the image with one entry set reads the code there and the old image elsewhere. -/
theorem setchWritesOneField : Obligations.SetchWritesOneField := by
  intro s chn cfgv
  rw [exec_bSetch]
  obtain ⟨hout, he⟩ | ⟨hc, hv, k, v, hk, hcode, he⟩ := setChannel_operand_cases chn cfgv s.regs <;> rw [he]
  · exact ⟨fun _ => rfl, fun ⟨_, _⟩ => by omega⟩
  · refine ⟨fun _ => by omega, fun _ => ⟨s.regs.ch.set k v, fun c hcc => ?_, fun c hcc => ?_, rfl⟩⟩
    · rw [Six.get_set, if_pos (Fin.ext (hcc.trans hk.symm)), hcode]
    · rw [Six.get_set, if_neg fun h => hcc (by rw [h, hk])]

/-! ### The diagnosis operations (R235, R236) -/

theorem exec_bOffdiag (r0 r1 r2 : BitVec 2) (s : State) :
    exec (.bOffdiag r0 r1 r2) s = .next (s.returned (offDiagnosis r0 r1 r2 s.regs)) := rfl

theorem offDiagnosis_of_reserved {r0 r1 r2 : BitVec 2} (h : r0 = 3 ∨ r1 = 3 ∨ r2 = 3) (r : Regs) :
    offDiagnosis r0 r1 r2 r = (r, .invalid) := by
  rw [offDiagnosis, diagFieldsOfCodes_of_reserved h]

/-- Settles O38: B.DIAGOL by definition, B.OFFDIAG with a reserved answer or with those of three phases. -/
theorem bopDiagnosisLatchesAnswers : Obligations.BopDiagnosisLatchesAnswers := by
  refine fun s => ⟨fun o => rfl, fun r0 r1 r2 => ⟨fun h => ?_, ?_⟩⟩
  · rw [exec_bOffdiag, offDiagnosis_of_reserved h, State.returned_same]
  · rintro d g rfl rfl rfl hg
    obtain rfl := eq_globalFail_of_iff_failing hg
    rw [exec_bOffdiag, offDiagnosis_codes]
    rfl

/-! ### What the BOP port leaves unchanged (R230) -/

/-- Settles O39: each operation writes nothing, or registers of the layer that the statement sets back. -/
theorem bopChangesOnlyBdrvRegisters : Obligations.BopChangesOnlyBdrvRegisters := by
  intro i s hi
  cases i with
  | init | start | stop | setref _ | tick | hall _ _ | offdiag _ _ _ | diagol _ | mon _ _ | clrsts _ | setint _ _ =>
    cases hi
  | bSetbridge img =>
    refine ⟨_, exec_bSetbridge img s, ?_⟩
    obtain he | ⟨g, he⟩ := setBridge_cases img s.regs <;> rw [he] <;> rfl
  | bSetch chn cfgv =>
    refine ⟨_, exec_bSetch chn cfgv s, ?_⟩
    obtain he | ⟨c, v, he⟩ := setChannel_cases chn cfgv s.regs <;> rw [he] <;> rfl
  | bClrsts _ => exact ⟨_, rfl, rfl⟩
  | bSetint chn which =>
    refine ⟨_, exec_bSetint chn which s, ?_⟩
    obtain he | ⟨e, he⟩ := setInterrupt_cases chn which s.regs <;> rw [he] <;> rfl
  | bDiagol _ => exact ⟨_, rfl, rfl⟩
  | bOffdiag r0 r1 r2 =>
    refine ⟨_, exec_bOffdiag r0 r1 r2 s, ?_⟩
    obtain he | ⟨d, he⟩ := offDiagnosis_cases r0 r1 r2 s.regs <;> rw [he] <;> rfl

/-! ### PWM output by `mstate` (R242) -/

/-- R132, R136: the high side of a well-formed entry is on PWM. -/
theorem pwmActive_of_wfEntry {g : Image} (h : wfEntry g) : pwmActive g := by
  obtain ⟨a, -, -, hpwm, -⟩ := h
  exact ⟨highSide a, .inl hpwm⟩

/-- R136: an image of one configuration that is neither PWM nor StaticOn has no PWM output. -/
theorem not_pwmActive_of_const {g : Image} {v : ChannelConfig} (h : ∀ c, g.get c = v) (hp : v ≠ .pwm)
    (hs : v ≠ .staticOn) : ¬ pwmActive g := by
  rintro ⟨c, hc⟩
  rw [h c] at hc
  exact hc.elim hp hs

/-- Settles O40: (a) to (c) of R45 give the image of each `mstate`: all Off, all Enabled, or a well-formed entry. -/
theorem pwmActiveExactlyInRunning : Obligations.PwmActiveExactlyInRunning := by
  rintro s ⟨hw, -, hr⟩
  refine ⟨fun hpwm => ?_, fun hm => ?_⟩
  · cases hm : s.regs.mstate with
    | off => exact absurd hpwm (not_pwmActive_of_const (hr.off_or_fault_allOff (.inl hm)) nofun nofun)
    | starting => exact absurd hpwm (not_pwmActive_of_const (hr.starting_allEnabled hm).1 nofun nofun)
    | running => rfl
    | fault => exact absurd hpwm (not_pwmActive_of_const (hr.off_or_fault_allOff (.inr hm)) nofun nofun)
  · obtain ⟨-, d, hch⟩ := hr.running_tableEntry hm
    exact hch ▸ pwmActive_of_wfEntry (hw.comm_wfEntry _ d)

end Sys2Proof.Machine

/-! ## Faults and responses (60_exceptions.md): the causes of the responses and the fault kinds, and the Fault state -/

namespace Sys2Proof.Machine

open Sys2Proof Sys2Proof.Safety

/-! ### Response codes by their causes (R271) -/

/-- R271 of one event on the registers `r`: OK where no other code has a cause; ERR_STATE or ERR_DIAG_PWM for its own
cause alone, and then the registers are `r` again. -/
inductive AnswersByCause (i : Instr) (r : Regs) : Regs × Resp → Prop
  | ok (t : Regs) (hs : ¬ AnswersErrState i r.mstate) (hd : ¬ AnswersErrDiagPwm i r.mstate) :
    AnswersByCause i r (t, .ok)
  | errState (hs : AnswersErrState i r.mstate) (hd : ¬ AnswersErrDiagPwm i r.mstate) :
    AnswersByCause i r (r, .errState)
  | errDiagPwm (hs : ¬ AnswersErrState i r.mstate) (hd : AnswersErrDiagPwm i r.mstate) :
    AnswersByCause i r (r, .errDiagPwm)

section
variable {m : MotorState}

@[simp] theorem answersErrState_start : AnswersErrState .start m ↔ m ≠ .off := by simp [AnswersErrState]

@[simp] theorem answersErrState_stop : AnswersErrState .stop m ↔ m = .off ∨ m = .fault := by simp [AnswersErrState]

@[simp] theorem answersErrState_hall (ts : BitVec 24) (pat : BitVec 3) :
    AnswersErrState (.hall ts pat) m ↔ m = .off ∨ m = .fault := by simp [AnswersErrState]

@[simp] theorem answersErrState_offdiag (r0 r1 r2 : BitVec 2) :
    AnswersErrState (.offdiag r0 r1 r2) m ↔ m = .fault := by simp [AnswersErrState]

@[simp] theorem answersErrState_diagol (o : Bool) : AnswersErrState (.diagol o) m ↔ m = .fault := by
  simp [AnswersErrState]

@[simp] theorem answersErrDiagPwm_offdiag (r0 r1 r2 : BitVec 2) :
    AnswersErrDiagPwm (.offdiag r0 r1 r2) m ↔ ¬ failing r0 r1 r2 ∧ m = .running := by
  simp [AnswersErrDiagPwm, failing]

@[simp] theorem answersErrDiagPwm_diagol (o : Bool) : AnswersErrDiagPwm (.diagol o) m ↔ m = .running := by
  simp [AnswersErrDiagPwm]

/-- R271: only OFFDIAG and DIAGOL answer ERR_DIAG_PWM. -/
theorem not_answersErrDiagPwm {i : Instr} (ho : ∀ r0 r1 r2, i ≠ .offdiag r0 r1 r2) (hd : ∀ o, i ≠ .diagol o) :
    ¬ AnswersErrDiagPwm i m := by
  rintro ⟨h | ⟨o, h⟩, -⟩
  · exact ho 0 0 0 h
  · exact hd o h

end

/-- The three phases that three valid answers name. -/
theorem exists_diagFields_of_wellFormed {r0 r1 r2 : BitVec 2} (hw : Instr.WellFormed (.offdiag r0 r1 r2)) :
    ∃ d : DiagFields, d.p0.code = r0 ∧ d.p1.code = r1 ∧ d.p2.code = r2 := by
  obtain ⟨hr, -⟩ | ⟨-, d, -, hcodes⟩ := diagFieldsOfCodes_cases r0 r1 r2
  · have hbad := diagCodes_not_valid_iff.mpr (by simpa [← BitVec.toNat_inj] using hr)
    cases hbad.symm.trans hw
  · exact ⟨d, hcodes⟩

section
variable (cfg : Cfg) (r : Regs)

theorem startEvent_answersByCause : AnswersByCause .start r (startEvent cfg r) := by
  have hd : ¬ AnswersErrDiagPwm .start r.mstate := not_answersErrDiagPwm nofun nofun
  obtain ⟨hm, he⟩ | ⟨hm, -, he⟩ | ⟨hm, -, -, -, he⟩ | ⟨hm, -, -, he⟩ := startEvent_cases cfg r <;> rw [he]
  · exact .errState (by simpa) hd
  all_goals exact .ok _ (by simp [hm]) hd

theorem stopEvent_answersByCause : AnswersByCause .stop r (stopEvent r) := by
  have hd : ¬ AnswersErrDiagPwm .stop r.mstate := not_answersErrDiagPwm nofun nofun
  obtain ⟨hm, he⟩ | ⟨hm, he⟩ := stopEvent_cases r <;> rw [he]
  · exact .ok _ (answersErrState_stop.not.mpr (not_unpowered_of_powered hm)) hd
  · exact .errState (answersErrState_stop.mpr hm) hd

theorem hallEvent_answersByCause (ts : BitVec 24) (pat : BitVec 3) :
    AnswersByCause (.hall ts pat) r (hallEvent cfg ts pat r) := by
  have hd : ¬ AnswersErrDiagPwm (.hall ts pat) r.mstate := not_answersErrDiagPwm nofun nofun
  obtain ⟨hm, he⟩ | ⟨hm, -, he⟩ | ⟨hm, -, k, -, he⟩ := hallEvent_cases cfg ts pat r <;> rw [he]
  · exact .errState ((answersErrState_hall ts pat).mpr hm) hd
  all_goals exact .ok _ ((answersErrState_hall ts pat).not.mpr (not_unpowered_of_powered hm)) hd

theorem offdiagEvent_answersByCause {r0 r1 r2 : BitVec 2} (hw : Instr.WellFormed (.offdiag r0 r1 r2)) :
    AnswersByCause (.offdiag r0 r1 r2) r (offdiagEvent r0 r1 r2 r) := by
  obtain ⟨d, rfl, rfl, rfl⟩ := exists_diagFields_of_wellFormed hw
  have hfail : globalFail d = true ↔ failing d.p0.code d.p1.code d.p2.code := globalFail_iff_failing rfl rfl rfl
  cases hm : r.mstate with
  | off =>
    rw [offdiagEvent_of_off d hm]
    exact .ok _ (by simp [hm]) (by simp [hm])
  | fault =>
    rw [offdiagEvent_of_fault d hm]
    exact .errState (by simp [hm]) (by simp [hm])
  | starting =>
    cases hg : globalFail d with
    | false =>
      rw [offdiagEvent_of_starting d hm hg]
      exact .ok _ (by simp [hm]) (by simp [hm])
    | true =>
      rw [offdiagEvent_of_failing d (.inl hm) hg]
      exact .ok _ (by simp [hm]) (by simp [hm])
  | running =>
    cases hg : globalFail d with
    | false =>
      rw [offdiagEvent_of_running d hm hg]
      exact .errDiagPwm (by simp [hm]) (by simp [hm, ← hfail, hg])
    | true =>
      rw [offdiagEvent_of_failing d (.inr hm) hg]
      exact .ok _ (by simp [hm]) (by simp [← hfail, hg])

theorem diagolEvent_answersByCause (o : Bool) : AnswersByCause (.diagol o) r (diagolEvent cfg o r) := by
  obtain ⟨hm, he⟩ | ⟨hm, -, he⟩ | ⟨hm, -, -, he⟩ | ⟨hm, he⟩ | ⟨hm, he⟩ := diagolEvent_cases cfg o r <;> rw [he]
  · exact .ok _ (by simp [hm]) (by simp [hm])
  · exact .ok _ (by simp [hm]) (by simp [hm])
  · exact .ok _ (by simp [hm]) (by simp [hm])
  · exact .errDiagPwm (by simp [hm]) (by simp [hm])
  · exact .errState (by simp [hm]) (by simp [hm])

/-- R271: an event with a row in none of the causes answers OK. -/
theorem answersByCause_of_ok {i : Instr} {out : Regs × Resp} (hok : out.2 = .ok) (hs : ¬ AnswersErrState i r.mstate)
    (hd : ¬ AnswersErrDiagPwm i r.mstate) : AnswersByCause i r out := by
  obtain ⟨t, c⟩ := out
  obtain rfl : c = .ok := hok
  exact .ok t hs hd

end

/-- R271: every event that is no reserved word answers by its causes. -/
theorem exec_answersByCause {i : Instr} (hp : i.port = .evt) (hw : i.WellFormed) (s : State) :
    ∃ out, exec i s = .next (s.answer out) ∧ AnswersByCause i s.regs out := by
  cases i with
  | start => exact ⟨_, rfl, startEvent_answersByCause s.cfg s.regs⟩
  | stop => exact ⟨_, rfl, stopEvent_answersByCause s.regs⟩
  | hall ts pat => exact ⟨_, rfl, hallEvent_answersByCause s.cfg s.regs ts pat⟩
  | offdiag _ _ _ => exact ⟨_, rfl, offdiagEvent_answersByCause s.regs hw⟩
  | diagol o => exact ⟨_, rfl, diagolEvent_answersByCause s.cfg s.regs o⟩
  | init | setref _ | clrsts _ =>
    exact ⟨_, rfl, .ok _ (by simp [AnswersErrState]) (not_answersErrDiagPwm nofun nofun)⟩
  | tick =>
    obtain ⟨hok, -⟩ := tickEvent_tableCell s.cfg s.regs
    exact ⟨_, rfl, answersByCause_of_ok s.regs hok (by simp [AnswersErrState]) (not_answersErrDiagPwm nofun nofun)⟩
  | mon _ _ =>
    obtain ⟨hok, -⟩ := monEvent_tableCell s.cfg s.regs hw
    exact ⟨_, rfl, answersByCause_of_ok s.regs hok (by simp [AnswersErrState]) (not_answersErrDiagPwm nofun nofun)⟩
  | setint _ which =>
    obtain ⟨-, hok⟩ := setintEvent_tableCell s.cfg s.regs which hw
    exact ⟨_, rfl, answersByCause_of_ok s.regs hok (by simp [AnswersErrState]) (not_answersErrDiagPwm nofun nofun)⟩
  | bSetbridge _ | bSetch _ _ | bClrsts _ | bSetint _ _ | bDiagol _ | bOffdiag _ _ _ => cases hp

/-- R81, R83: a word of the event port that decodes is a well-formed event. -/
theorem event_of_decode {w : Word} {i : Instr} (h : decode ⟨.evt, w⟩ = .ok i) : i.port = .evt ∧ i.WellFormed :=
  ⟨decodeEvt_port (.inl h), (encodeInvertsDecode _ i h).2⟩

/-- Settles O41: a reserved word is refused without a change of the registers, and every other word is an event that
answers by its causes. -/
theorem responseCodesHaveTheirCauses : Obligations.ResponseCodesHaveTheirCauses := by
  refine ⟨rfl, rfl, rfl, rfl, fun s w rest hp => ?_⟩
  obtain ⟨hreserved, hevent⟩ := reservedEventWordsRefused s w rest hp
  by_cases hres : ReservedEvent w
  · have hnone := (reservedEvent_iff w).mp hres
    exact ⟨_, hreserved hres, by simp [hres, hnone]⟩
  · obtain ⟨i, hdec⟩ := hevent hres
    obtain ⟨hport, hwf⟩ := event_of_decode hdec
    obtain ⟨out, hout, hcause⟩ := exec_answersByCause hport hwf (s.taken rest)
    refine ⟨_, (stepRunsDecodedInstruction s _ rest i hp hdec).trans hout, ?_⟩
    rw [State.taken_regs] at hcause
    cases hcause with
    | ok t hs hd => simp [hres, hdec, hs, hd]
    | errState hs hd => simp [hres, hdec, hs, hd]
    | errDiagPwm hs hd => simp [hres, hdec, hs, hd]

/-! ### The causes of the fault kinds (R270) -/

section
variable {cfg : Cfg} {r : Regs} {i : Instr}

/-- R270: each row of the table enters Fault with its kind, and records its registers. -/
theorem regsAfter_of_raises {k : FaultKind} (hw : i.WellFormed) (h : Raises i cfg r k) :
    (regsAfter i cfg r).mstate = .fault ∧ (regsAfter i cfg r).fault_kind = k ∧
      Recorded i cfg r (regsAfter i cfg r) := by
  obtain ⟨rfl, hm, ts, pat, rfl, hpat⟩ | ⟨rfl, hm, rfl, hlimit⟩ | ⟨rfl, hm, r0, r1, r2, rfl, hfail⟩ |
    ⟨rfl, rfl, hm, hg⟩ | ⟨rfl, hm, chn, kind, rfl, hien⟩ | ⟨rfl, hfatal, ⟨rfl, hm⟩ | ⟨rfl, hm, hol, hg⟩⟩ := h
  · rw [regsAfter, hallEvent_of_invalidPattern cfg ts hm hpat]
    exact ⟨rfl, rfl, rfl, rfl⟩
  · rw [regsAfter, tickEvent_at_limit cfg hm hlimit]
    refine ⟨rfl, rfl, fun hbelow => BitVec.eq_of_toNat_eq ?_⟩
    have hmax := cfg.STALL_TICKS.isLt
    rw [stall_succ_toNat (by omega)]
    omega
  · obtain ⟨d, rfl, rfl, rfl⟩ := exists_diagFields_of_wellFormed hw
    rw [regsAfter, offdiagEvent_of_failing d hm ((globalFail_iff_failing rfl rfl rfl).mpr hfail)]
    exact ⟨rfl, rfl, ⟨rfl, rfl, rfl, iff_of_true rfl hfail⟩, rfl⟩
  · rw [regsAfter, startEvent_of_globFail cfg hm hg, enterFault_eq]
    exact ⟨rfl, rfl, rfl, rfl⟩
  · have hchn : chn.toNat ≤ 5 := of_decide_eq_true hw
    have hkind := kind.toNat_le
    rw [regsAfter, monEvent_of_enabled hchn hien hm]
    exact ⟨rfl, rfl, setFlag_getLsbD_same _ (by omega) true⟩
  · rw [regsAfter, diagolEvent_of_openLoadFatal cfg hm hfatal]
    exact ⟨rfl, rfl, rfl⟩
  · rw [regsAfter, startEvent_of_openLoadFatal cfg hm hg hol hfatal, enterFault_eq]
    exact ⟨rfl, rfl, rfl, rfl⟩

/-- A bridge that is not in Fault is off or powered. -/
theorem off_or_powered (h : r.mstate ≠ .fault) : r.mstate = .off ∨ powered r := by
  unfold powered
  cases hm : r.mstate <;> simp_all

/-- R200, R270: the only cells of the transition table that enter Fault are those of the rows of R270. -/
theorem exists_raises_of_tableCell {t : Regs} {c : Resp} (h : TableCell i cfg r t c) (hr : r.mstate ≠ .fault)
    (ht : t.mstate = .fault) : ∃ k, Raises i cfg r k := by
  have hkept : t.mstate ≠ r.mstate := fun he => hr (he.symm.trans ht)
  cases i with
  | init =>
    obtain ⟨rfl, -⟩ := h
    cases ht
  | start =>
    obtain ⟨hpowered, hoff⟩ := h
    have hm : r.mstate = .off := by_contra fun hm => hkept (hpowered hm).1
    obtain ⟨-, -, hhealthy⟩ := hoff hm
    cases hg : r.glob_fail with
    | true => exact ⟨_, .inr (.inr (.inr (.inl ⟨rfl, rfl, hm, hg⟩)))⟩
    | false =>
      by_cases hlatch : r.ol = false ∨ cfg.openLoadFatal = false
      · cases (hhealthy ⟨hg, hlatch⟩).symm.trans ht
      · obtain ⟨hol, hfatal⟩ : r.ol = true ∧ cfg.openLoadFatal = true := by simpa using hlatch
        exact ⟨_, .inr (.inr (.inr (.inr (.inr ⟨rfl, hfatal, .inr ⟨rfl, hm, hol, hg⟩⟩))))⟩
  | stop =>
    obtain ⟨hpowered, hunpowered⟩ := h
    obtain hm | hm := off_or_powered hr
    · exact absurd (hunpowered (.inl hm)).1 hkept
    · cases (hpowered hm).1.symm.trans ht
  | tick =>
    obtain ⟨-, -, hsame, -⟩ := h
    obtain hm | hm := off_or_powered hr
    · exact absurd (hsame (.inl (.inl hm))) hkept
    · have hlimit := not_lt.mp fun hbelow => hkept (hsame (.inr hbelow))
      exact ⟨_, .inr (.inl ⟨rfl, hm, rfl, hlimit⟩)⟩
  | hall ts pat =>
    obtain ⟨hunpowered, hpowered⟩ := h
    obtain hm | hm := off_or_powered hr
    · exact absurd (hunpowered (.inl hm)).1 hkept
    · obtain ⟨-, -, hvalid⟩ := hpowered hm
      have hpat : invalidPattern pat := by_contra fun hpat => nomatch (hvalid hpat).symm.trans ht
      exact ⟨_, .inl ⟨rfl, hm, ts, pat, rfl, hpat⟩⟩
  | offdiag r0 r1 r2 =>
    obtain ⟨hoff, hstarting, hrunning, -, -⟩ := h
    obtain hm | hm := off_or_powered hr
    · cases (hoff hm).1.symm.trans ht
    · have hfail : failing r0 r1 r2 := by_contra fun hpass => hm.elim
        (fun hm => nomatch (hstarting ⟨hm, hpass⟩).1.symm.trans ht)
        (fun hm => nomatch (hrunning ⟨hm, hpass⟩).1.symm.trans ht)
      exact ⟨_, .inr (.inr (.inl ⟨rfl, hm, r0, r1, r2, rfl, hfail⟩))⟩
  | diagol o =>
    obtain ⟨hoff, -, hstarting, hrunning, -⟩ := h
    obtain hm | hm | hm := off_or_powered hr
    · cases (hoff hm).1.symm.trans ht
    · by_cases hok : o = false ∨ cfg.openLoadFatal = false
      · cases (hstarting ⟨hm, hok⟩).1.symm.trans ht
      · obtain ⟨rfl, hfatal⟩ : o = true ∧ cfg.openLoadFatal = true := by simpa using hok
        exact ⟨_, .inr (.inr (.inr (.inr (.inr ⟨rfl, hfatal, .inl ⟨rfl, hm⟩⟩))))⟩
    · cases (hrunning hm).1.symm.trans ht
  | mon chn kind =>
    obtain ⟨-, -, hsame⟩ := h
    obtain hm | hm := off_or_powered hr
    · exact absurd (hsame (.inl (.inl hm))).1 hkept
    · have hien := Bool.eq_true_of_not_eq_false fun hien => hkept (hsame (.inr hien)).1
      exact ⟨_, .inr (.inr (.inr (.inr (.inl ⟨rfl, hm, chn, kind, rfl, hien⟩))))⟩
  | setref _ | clrsts _ | setint _ _ => exact absurd h.1 hkept
  | bSetbridge _ | bSetch _ _ | bClrsts _ | bSetint _ _ | bDiagol _ | bOffdiag _ _ _ => exact absurd h hkept

end

/-- R230: an operation of the BOP port writes neither `mstate` nor the fault kind. -/
theorem exec_operation_keeps_fault {i : Instr} (hp : i.port = .bop) (s : State) :
    ∃ t, exec i s = .next t ∧ t.regs.mstate = s.regs.mstate ∧ t.regs.fault_kind = s.regs.fault_kind := by
  obtain ⟨t, he, hframe⟩ := bopChangesOnlyBdrvRegisters i s hp
  exact ⟨t, he, congrArg (·.regs.mstate) hframe, congrArg (·.regs.fault_kind) hframe⟩

/-- R200, R230: every well-formed instruction has its cell of the transition table. -/
theorem exec_tableCell {i : Instr} (hw : i.WellFormed) (s : State) :
    ∃ t c, exec i s = .next t ∧ TableCell i s.cfg s.regs t.regs c := by
  cases hp : i.port with
  | evt =>
    obtain ⟨t, c, he, -, hcell⟩ := transitionTable.1 i s hp hw
    exact ⟨t, c, he, hcell⟩
  | bop =>
    obtain ⟨t, he, hm, -⟩ := exec_operation_keeps_fault hp s
    refine ⟨t, .ok, he, ?_⟩
    cases i with
    | init | start | stop | setref _ | tick | hall _ _ | offdiag _ _ _ | diagol _ | mon _ _ | clrsts _ | setint _ _ =>
      cases hp
    | bSetbridge _ | bSetch _ _ | bClrsts _ | bSetint _ _ | bDiagol _ | bOffdiag _ _ _ => exact hm

/-- Settles O42: a row of R270 enters Fault with its kind, and what enters Fault has a row. -/
theorem faultKindsHaveTheirCauses : Obligations.FaultKindsHaveTheirCauses := by
  refine ⟨rfl, rfl, rfl, rfl, fun i s hw hs => ?_⟩
  obtain ⟨t, c, he, hcell⟩ := exec_tableCell hw s
  obtain ⟨hregs, -, -⟩ := exec_inv he
  refine ⟨t, he, fun k => ⟨fun h => ?_, fun ⟨hm, hk⟩ => ?_⟩, fun hm => ?_⟩
  · obtain ⟨hm, hk, -⟩ := regsAfter_of_raises hw h
    exact ⟨hregs ▸ hm, hregs ▸ hk⟩
  · obtain ⟨k', h⟩ := exists_raises_of_tableCell hcell hs hm
    obtain ⟨-, hk', -⟩ := regsAfter_of_raises hw h
    obtain rfl : k' = k := by rw [← hk', ← hregs, hk]
    exact h
  · obtain ⟨k, h⟩ := exists_raises_of_tableCell hcell hs hm
    obtain ⟨-, -, hrec⟩ := regsAfter_of_raises hw h
    exact hregs ▸ hrec

/-! ### Every instruction in Fault (R277, R278) -/

section
variable {s : State} (h : s.regs.mstate = .fault)
include h

theorem exec_start_of_fault : exec .start s = .next { s with resp := some .errState } := by
  rw [exec_start, startEvent_of_ne_off s.cfg (by simp [h]), State.answer_same]

theorem exec_stop_of_fault : exec .stop s = .next { s with resp := some .errState } := by
  rw [exec_stop, stopEvent_of_unpowered (.inr h), State.answer_same]

theorem exec_tick_of_fault : exec .tick s = .next { s with resp := some .ok } := by
  rw [exec_tick, tickEvent_of_unpowered s.cfg (.inr h), State.answer_same]

theorem exec_hall_of_fault (ts : BitVec 24) (pat : BitVec 3) :
    exec (.hall ts pat) s = .next { s with resp := some .errState } := by
  rw [exec_hall, hallEvent_of_unpowered s.cfg ts pat (.inr h), State.answer_same]

theorem exec_offdiag_of_fault {r0 r1 r2 : BitVec 2} (hw : Instr.WellFormed (.offdiag r0 r1 r2)) :
    exec (.offdiag r0 r1 r2) s = .next { s with resp := some .errState } := by
  obtain ⟨d, rfl, rfl, rfl⟩ := exists_diagFields_of_wellFormed hw
  rw [exec_offdiag, offdiagEvent_of_fault d h, State.answer_same]

theorem exec_diagol_of_fault (o : Bool) : exec (.diagol o) s = .next { s with resp := some .errState } := by
  rw [exec_diagol, diagolEvent_of_fault s.cfg o h, State.answer_same]

theorem exec_mon_of_fault {chn : BitVec 3} {kind : Bool} (hw : Instr.WellFormed (.mon chn kind)) :
    exec (.mon chn kind) s = .next { s with
      regs := { s.regs with sts := setFlag s.regs.sts (2 * chn.toNat + kind.toNat) true }, resp := some .ok } := by
  rw [exec_mon, monEvent_of_not_enabled (of_decide_eq_true hw) (.inr (.inr h))]
  rfl

/-- R277, R278: every instruction but INIT ends in Fault and keeps the kind. -/
theorem exec_keeps_fault {i : Instr} (hi : i ≠ .init) :
    ∃ t, exec i s = .next t ∧ t.regs.mstate = .fault ∧ t.regs.fault_kind = s.regs.fault_kind := by
  cases hp : i.port with
  | bop => exact h ▸ exec_operation_keeps_fault hp s
  | evt =>
    cases hw : i.wellFormed with
    | false => exact ⟨_, exec_event_of_not_wellFormed hp hw s, h, rfl⟩
    | true =>
      cases i with
      | init => exact absurd rfl hi
      | start => exact ⟨_, exec_start_of_fault h, h, rfl⟩
      | stop => exact ⟨_, exec_stop_of_fault h, h, rfl⟩
      | tick => exact ⟨_, exec_tick_of_fault h, h, rfl⟩
      | hall ts pat => exact ⟨_, exec_hall_of_fault h ts pat, h, rfl⟩
      | offdiag _ _ _ => exact ⟨_, exec_offdiag_of_fault h hw, h, rfl⟩
      | diagol o => exact ⟨_, exec_diagol_of_fault h o, h, rfl⟩
      | mon _ _ => exact ⟨_, exec_mon_of_fault h hw, h, rfl⟩
      | setref _ | clrsts _ => exact ⟨_, rfl, h, rfl⟩
      | setint chn which =>
        refine ⟨_, exec_setint chn which s, ?_⟩
        rw [State.answer_regs]
        obtain ⟨-, he, -⟩ | ⟨-, k, -, he, -⟩ := setintEvent_cases chn which s.regs <;> rw [he] <;> exact ⟨h, rfl⟩
      | bSetbridge _ | bSetch _ _ | bClrsts _ | bSetint _ _ | bDiagol _ | bOffdiag _ _ _ => cases hp

end

/-- Settles O44: each event that could raise a fault, and every instruction that is not INIT. -/
theorem noSecondFaultInFault : Obligations.NoSecondFaultInFault := by
  intro s h
  refine ⟨exec_hall_of_fault h, fun _ _ _ => exec_offdiag_of_fault h, exec_diagol_of_fault h, exec_tick_of_fault h,
    fun chn kind hw => ⟨_, fun j hj => setFlag_true_getLsbD s.regs.sts _ hj, exec_mon_of_fault h hw⟩, fun i hi => ?_⟩
  obtain ⟨t, he, -, hk⟩ := exec_keeps_fault h hi
  exact ⟨t, he, hk⟩

/-! ### The return from Fault (R277, R94) -/

/-- A pending word of a well-formed instruction is taken and its rule followed. -/
theorem step_encode {i : Instr} (hw : i.WellFormed) {s : State} {rest : List PortWord}
    (h : s.pending = encode i :: rest) : step s = exec i (s.taken rest) :=
  stepRunsDecodedInstruction s _ rest i h (decodeInvertsEncode i hw)

/-- R202: START from the reset registers finds no latch set, and primes what is already zero. -/
theorem startEvent_reset (cfg : Cfg) :
    startEvent cfg Regs.reset = ({ Regs.reset with mstate := .starting, ch := allEn }, .ok) := by
  rw [startEvent_of_healthy cfg rfl rfl (.inl rfl)]
  rfl

/-- Settles O45: INIT resets, every other instruction stays in Fault, and START runs from the reset registers after
INIT. -/
theorem onlyInitLeavesFault : Obligations.OnlyInitLeavesFault := by
  refine ⟨fun i s t h he => ⟨?_, fun hi => ?_⟩, fun s => exec_start_of_fault, fun s rest hp => ?_⟩
  · rintro rfl
    obtain rfl := Host.Outcome.next.inj ((exec_init s).symm.trans he)
    rfl
  · obtain ⟨t', he', hm, -⟩ := exec_keeps_fault h hi
    obtain rfl := Host.Outcome.next.inj (he'.symm.trans he)
    exact hm
  · have hinit := (step_encode rfl hp).trans (exec_init _)
    have hstart := (step_encode rfl (s := (s.taken (encode .start :: rest)).answer (Regs.reset, .ok)) rfl).trans
      (exec_start _)
    refine ⟨_, (run_succ_of_step core 1 hinit).trans (run_succ_of_step core 0 hstart), rfl, ?_⟩
    exact congrArg Prod.fst (startEvent_reset s.cfg)

end Sys2Proof.Machine
